-- ==== Sys2Proof/Word.lean ====
section
/-! DEFINITION. The unsigned word types of the block (00_scope.md R17: u64, u32, u8, u4) and the 11 bits of ROUND
(10_state.md R38). Every value is unsigned; BitVec addition and multiplication wrap as R17 says. -/

namespace Sys2Proof

/-- A u64: digest words, generator state, seed, buffer entries, accumulator (00_scope.md R9). -/
abbrev U64 := BitVec 64

/-- A u32: host registers, the nonce (00_scope.md R10), FIDX, N_L. -/
abbrev U32 := BitVec 32

/-- A u8: digest bytes, the difficulty. -/
abbrev U8 := BitVec 8

/-- A u4: PHASE and the command code. -/
abbrev U4 := BitVec 4

end Sys2Proof
end

