-- ==== Sys2Proof/Syntax.lean ====
section
/-! DEFINITION. The instructions of the block: one constructor per row of spec/opcode_table.json (18 rows). The four
host commands and the reserved commands carry the ignored bits [31:4] of the command word (30_encoding.md R111), so that
no bit of an encoding is lost; rows that span several codes carry the code. -/

namespace Sys2Proof

/-- What the spec calls the block's "instructions" (00_scope.md R3): host commands written to CTRL and the
micro-operations of the sequencer, one per phase. -/
inductive Instr where
  /-- NOP, CMD 0x0 (45_search_fsm.md R253). -/
  | nop (ign : BitVec 28)
  /-- START, CMD 0x1 (R251). -/
  | start (ign : BitVec 28)
  /-- ABORT, CMD 0x2 (R252). -/
  | abort (ign : BitVec 28)
  /-- CLRERR, CMD 0x3 (R254). -/
  | clrerr (ign : BitVec 28)
  /-- RESERVED_CMD, CMD 0x4 to 0x7 (R255). -/
  | reservedCmdLow (code : U4) (ign : BitVec 28)
  /-- RESERVED_CMD, CMD 0x8 to 0xF (R255). -/
  | reservedCmdHigh (code : U4) (ign : BitVec 28)
  /-- IDLE_HOLD, PHASE 0x0 (R256). -/
  | idleHold
  /-- SEED_ADVANCE, PHASE 0x1 (R260). -/
  | seedAdvance
  /-- STATE_DERIVE, PHASE 0x2 (R261). -/
  | stateDerive
  /-- FILL_STEP, PHASE 0x3 (42_buffer_fill.md R181). -/
  | fillStep
  /-- BOUNCE_INIT, PHASE 0x4 (43_bounce.md R205). -/
  | bounceInit
  /-- BOUNCE_STEP, PHASE 0x5 (43_bounce.md R206). -/
  | bounceStep
  /-- DIFF_TEST, PHASE 0x6 (R262). -/
  | diffTest
  /-- NONCE_INC, PHASE 0x7 (R263). -/
  | nonceInc
  /-- FOUND_HOLD, PHASE 0x8 (R257). -/
  | foundHold
  /-- RESERVED_PHASE, PHASE 0x9 (30_encoding.md R116). -/
  | reservedPhase9
  /-- RESERVED_PHASE, PHASE 0xA and 0xB (R116). -/
  | reservedPhaseAB (code : U4)
  /-- RESERVED_PHASE, PHASE 0xC to 0xF (R116). -/
  | reservedPhaseCF (code : U4)
  deriving DecidableEq, Repr

end Sys2Proof
end

