-- ==== Sys2Proof/WellFormed.lean ====
section
/-! DEFINITION. Which terms of Instr stand for a code of the table: a row that spans several codes carries one of its
own codes (30_encoding.md R112, R115; the match and mask of spec/opcode_table.json). -/

namespace Sys2Proof

/-- The code a term carries is one of its row's. -/
def Instr.wellFormed : Instr → Bool
  | .nop _ => true
  | .start _ => true
  | .abort _ => true
  | .clrerr _ => true
  | .reservedCmdLow code _ => decide (code.extractLsb' 2 2 = 0b01#2)
  | .reservedCmdHigh code _ => code.getLsbD 3
  | .idleHold => true
  | .seedAdvance => true
  | .stateDerive => true
  | .fillStep => true
  | .bounceInit => true
  | .bounceStep => true
  | .diffTest => true
  | .nonceInc => true
  | .foundHold => true
  | .reservedPhase9 => true
  | .reservedPhaseAB code => decide (code.extractLsb' 1 3 = 0b101#3)
  | .reservedPhaseCF code => decide (code.extractLsb' 2 2 = 0b11#2)

end Sys2Proof
end

