-- ==== Sys2Proof/Decode.lean ====
section
/-! DEFINITION. The two decoders of the block (30_encoding.md R110: the command word and the phase code, each total),
the opcode table as rows of mask and match, and the encoder. -/

namespace Sys2Proof

/-- The two encoded forms (30_encoding.md R110). -/
inductive Code where
  /-- The 32-bit data of a host write to CTRL (R111). -/
  | command (word : U32)
  /-- The value of PHASE (R115). -/
  | phase (code : U4)
  deriving DecidableEq, Repr

/-- The CMD field, bits [3:0] of a command word (R111). -/
def cmdField (word : U32) : U4 := word.extractLsb' 0 4

/-- Bits [31:4] of a command word, which the block ignores (R111, R114). -/
def ignoredField (word : U32) : BitVec 28 := word.extractLsb' 4 28

/-- The command decoder of R113: total, by bits [3:0] alone. -/
def decodeCommand (word : U32) : Instr :=
  let ign := ignoredField word
  match (cmdField word).toNat with
  | 0x0 => .nop ign
  | 0x1 => .start ign
  | 0x2 => .abort ign
  | 0x3 => .clrerr ign
  | 0x4 | 0x5 | 0x6 | 0x7 => .reservedCmdLow (cmdField word) ign
  | _ => .reservedCmdHigh (cmdField word) ign

/-- The micro-operation of each phase code (R115, R116): total. -/
def decodePhase (code : U4) : Instr :=
  match code.toNat with
  | 0x0 => .idleHold
  | 0x1 => .seedAdvance
  | 0x2 => .stateDerive
  | 0x3 => .fillStep
  | 0x4 => .bounceInit
  | 0x5 => .bounceStep
  | 0x6 => .diffTest
  | 0x7 => .nonceInc
  | 0x8 => .foundHold
  | 0x9 => .reservedPhase9
  | 0xA | 0xB => .reservedPhaseAB code
  | _ => .reservedPhaseCF code

/-- The instruction of a code. Nothing is rejected here: both decoders are total (R113, R115, R116). -/
def decode : Code → Instr
  | .command word => decodeCommand word
  | .phase code => decodePhase code

/-- Why a string of bits is no code of the block. -/
inductive DecodeReject where
  /-- No bits at all. -/
  | noBits
  /-- More bits than the longest code, the 32-bit command word (R118), has. -/
  | longerThanACommandWord
  deriving DecidableEq, Repr

/-- Which form `nbits` bits hold, as spec/opcode_table.json numbers them: a row of format PHASE has 4 bits (one byte), a
row of format CMD the 32 of a command word. Bits beyond the code's own width are not read (log entry 14). -/
def codeOfBits (nbits w : Nat) : Except DecodeReject Code :=
  if nbits = 0 then .error .noBits
  else if nbits ≤ 8 then .ok (.phase (BitVec.ofNat 4 w))
  else if nbits ≤ 32 then .ok (.command (BitVec.ofNat 32 w))
  else .error .longerThanACommandWord

/-- Decoding of a string of bits: total, rejecting by name. -/
def decodeBits (nbits w : Nat) : Except DecodeReject Instr :=
  match codeOfBits nbits w with
  | .ok c => .ok (decode c)
  | .error r => .error r

/-- The instruction the decoder reads from the bits `w` of a table row of `nbits` bits. -/
def decodeTableWord (nbits w : Nat) : Option Instr :=
  match decodeBits nbits w with
  | .ok i => some i
  | .error _ => none

/-- A command word: ignored bits [31:4] over CMD [3:0] (R111). -/
def commandWord (ign : BitVec 28) (cmd : U4) : U32 := ign ++ cmd

/-- The code of an instruction, from the tables of R112 and R115. -/
def encode : Instr → Code
  | .nop ign => .command (commandWord ign 0x0#4)
  | .start ign => .command (commandWord ign 0x1#4)
  | .abort ign => .command (commandWord ign 0x2#4)
  | .clrerr ign => .command (commandWord ign 0x3#4)
  | .reservedCmdLow code ign => .command (commandWord ign code)
  | .reservedCmdHigh code ign => .command (commandWord ign code)
  | .idleHold => .phase 0x0#4
  | .seedAdvance => .phase 0x1#4
  | .stateDerive => .phase 0x2#4
  | .fillStep => .phase 0x3#4
  | .bounceInit => .phase 0x4#4
  | .bounceStep => .phase 0x5#4
  | .diffTest => .phase 0x6#4
  | .nonceInc => .phase 0x7#4
  | .foundHold => .phase 0x8#4
  | .reservedPhase9 => .phase 0x9#4
  | .reservedPhaseAB code => .phase code
  | .reservedPhaseCF code => .phase code

/-- One row of spec/opcode_table.json: its form, and the codes it takes, those with `code &&& mask = value`. -/
inductive Row where
  /-- A row of format CMD. -/
  | cmd (mask value : U32)
  /-- A row of format PHASE. -/
  | phase (mask value : U4)
  deriving DecidableEq, Repr

/-- The code is one of the row's. -/
def Row.takes : Row → Code → Bool
  | .cmd mask value, .command word => decide (word &&& mask = value)
  | .phase mask value, .phase code => decide (code &&& mask = value)
  | .cmd _ _, .phase _ => false
  | .phase _ _, .command _ => false

/-- The row of spec/opcode_table.json an instruction stands for. -/
def rowOf : Instr → Row
  | .nop _ => .cmd 0x0000000F#32 0x00000000#32
  | .start _ => .cmd 0x0000000F#32 0x00000001#32
  | .abort _ => .cmd 0x0000000F#32 0x00000002#32
  | .clrerr _ => .cmd 0x0000000F#32 0x00000003#32
  | .reservedCmdLow _ _ => .cmd 0x0000000C#32 0x00000004#32
  | .reservedCmdHigh _ _ => .cmd 0x00000008#32 0x00000008#32
  | .idleHold => .phase 0xF#4 0x0#4
  | .seedAdvance => .phase 0xF#4 0x1#4
  | .stateDerive => .phase 0xF#4 0x2#4
  | .fillStep => .phase 0xF#4 0x3#4
  | .bounceInit => .phase 0xF#4 0x4#4
  | .bounceStep => .phase 0xF#4 0x5#4
  | .diffTest => .phase 0xF#4 0x6#4
  | .nonceInc => .phase 0xF#4 0x7#4
  | .foundHold => .phase 0xF#4 0x8#4
  | .reservedPhase9 => .phase 0xF#4 0x9#4
  | .reservedPhaseAB _ => .phase 0xE#4 0xA#4
  | .reservedPhaseCF _ => .phase 0xC#4 0xC#4

/-- The 18 rows of spec/opcode_table.json, in its order. -/
def opcodeRows : List Row :=
  [.cmd 0x0000000F#32 0x00000000#32, .cmd 0x0000000F#32 0x00000001#32, .cmd 0x0000000F#32 0x00000002#32,
   .cmd 0x0000000F#32 0x00000003#32, .cmd 0x0000000C#32 0x00000004#32, .cmd 0x00000008#32 0x00000008#32,
   .phase 0xF#4 0x0#4, .phase 0xF#4 0x1#4, .phase 0xF#4 0x2#4, .phase 0xF#4 0x3#4, .phase 0xF#4 0x4#4,
   .phase 0xF#4 0x5#4, .phase 0xF#4 0x6#4, .phase 0xF#4 0x7#4, .phase 0xF#4 0x8#4, .phase 0xF#4 0x9#4,
   .phase 0xE#4 0xA#4, .phase 0xC#4 0xC#4]

end Sys2Proof
end

