-- ==== Sys2Proof/Config.lean ====
section
/-! DEFINITION. What an implementation fixes (the parameter table of 92_eei_decisions.md) and the free values of the
model. The parameters are plain data, carried in State, so that a statement over every state is a statement over every
choice of them (log entry 2). A free value is an opaque constant: nothing can be proved about which value it is. -/

namespace Sys2Proof.Config

/-- The parameters a model takes (00_scope.md R11, R13, R15; 92_eei_decisions.md, "Parameters a model takes").
`fairness` is no datum: see log entry 1. -/
structure Params where
  /-- BUF_WORDS_MAX: the number of u64 entries of the work buffer (R13), `1 <= BUF_WORDS_MAX <= 2^32 - 1`. -/
  bufWordsMax : U32
  /-- SEED_INIT (R11, D38). -/
  seedInit : U64
  /-- SEED_MULT (R11, D38), odd. -/
  seedMult : U64
  /-- BASE: the platform address of the register window (R15), a multiple of 256 (D26). -/
  base : Nat
  deriving DecidableEq, Repr

/-- The ranges the parameter table of 92_eei_decisions.md gives. -/
def Params.wf (p : Params) : Bool :=
  decide (p.bufWordsMax ≠ 0#32) && p.seedMult.getLsbD 0 && decide (p.base % 256 = 0)

/-- The defaults of R11 and R13. BASE has no default; 0 is a DESIGN CHOICE (log entry 2). -/
def Params.default : Params where
  bufWordsMax := 0x00100000#32
  seedInit := 0x001ED8B55FAC9DEC#64
  seedMult := 0x106689D45497FDB5#64
  base := 0

/-- FREE VALUE (log entry 3): what entry `index` of the work buffer holds while nothing has written it since reset
number `epoch`; 20_memory.md R82 leaves it unspecified. -/
opaque bufUnspecified (epoch index : Nat) : U64

/-- FREE VALUE (log entry 6): the buffer operand of a BOUNCE_STEP whose index is a remainder by 0, which 00_scope.md
R17 does not define; the argument numbers the occurrences. -/
opaque bounceUndefined (count : Nat) : U64

end Sys2Proof.Config
end

