-- ==== Sys2Proof/Machine/State.lean ====
section
/-! DEFINITION. The state of the block (10_state.md), as plain data, and the reasons a step can stop. Beside the block's
own state it holds the block's parameters, the last bus response, and the interleaving of host accesses, micro-steps and
resets still to come (20_memory.md R95; log entries 1, 2, 11). -/

namespace Sys2Proof.Machine

/-- Four u64 words: LH[0..3] (10_state.md R31) and S[0..3] (R32). -/
structure Quad where
  w0 : U64
  w1 : U64
  w2 : U64
  w3 : U64
  deriving DecidableEq, Repr

/-- DIGEST0 to DIGEST7 (10_state.md R48). -/
structure Digest where
  d0 : U32
  d1 : U32
  d2 : U32
  d3 : U32
  d4 : U32
  d5 : U32
  d6 : U32
  d7 : U32
  deriving DecidableEq, Repr

/-- The codes ERR holds (60_exceptions.md R290). Codes 0x5 to 0xF are never recorded and have no constructor (log
entry 9). -/
inductive ErrCode where
  /-- 0x0: no error recorded. -/
  | none
  /-- 0x1: a CTRL write with a reserved code (R291). -/
  | badCmd
  /-- 0x2: a START while a search runs (R293). -/
  | busyStart
  /-- 0x3: a START with a length outside 1 .. BUF_WORDS_MAX (R292). -/
  | badBufLen
  /-- 0x4: an unsupported host access (R294). -/
  | busErr
  deriving DecidableEq, Repr

/-- The work buffer (20_memory.md R80): (entry index, u64) pairs in rising order of index, one for each entry written
since the last reset (log entries 3, 16). -/
abbrev Memory := List (Nat × U64)

/-- Width of a host read; only 32 bits is supported (20_memory.md R86, R87). -/
inductive Width where
  | w8 | w16 | w32 | w64
  deriving DecidableEq, Repr

/-- The data of a host write, of its own width (20_memory.md R86, R87). -/
inductive WriteData where
  | w8 (v : U8)
  | w16 (v : BitVec 16)
  | w32 (v : U32)
  | w64 (v : U64)
  deriving DecidableEq, Repr

/-- One host access at a platform address: RegRead or RegWrite at offset `addr - BASE` (20_memory.md R85). -/
inductive HostAccess where
  | read (addr : Nat) (width : Width)
  | write (addr : Nat) (data : WriteData)
  deriving DecidableEq, Repr

/-- What the block answers an access on the bus: an error response or not, and for a read the data (R86, R87). -/
structure BusResponse where
  error : Bool
  rdata : Option U32
  deriving DecidableEq, Repr

/-- One atomic event of the interleaving (20_memory.md R90, R95; 60_exceptions.md R301). -/
inductive Event where
  /-- The sequencer's turn: one micro-step. -/
  | seq
  /-- A host access. -/
  | host (a : HostAccess)
  /-- Reset (70_reset_and_hazards.md R320). -/
  | reset
  deriving DecidableEq, Repr

/-- The whole state. -/
structure State where
  /-- The block's parameters, the same in every state of a run (log entry 2). -/
  params : Config.Params
  /-- LH[0..3] (R31). -/
  lh : Quad
  /-- S[0..3], the generator state (R32). -/
  gen : Quad
  /-- SEED (R33). -/
  seed : U64
  /-- NONCE (R34). -/
  nonce : U32
  /-- ACC (R35). -/
  acc : U64
  /-- PHASE, the code of 30_encoding.md R115 (R36). -/
  phase : U4
  /-- FIDX (R37). -/
  fidx : U32
  /-- ROUND (R38). -/
  round : BitVec 11
  /-- DIFF_L (R39). -/
  diffL : U8
  /-- N_L (R39). -/
  nL : U32
  /-- ERR (R40). -/
  err : ErrCode
  /-- DIFFICULTY.DIFF (R46). -/
  diff : U8
  /-- BUF_LEN.N (R47). -/
  bufLen : U32
  /-- DIGEST0..7 (R48). -/
  digest : Digest
  /-- BUF (R41, 20_memory.md R80). -/
  buf : Memory
  /-- The MODEL's own: the answer to the most recent host access of the window, none before the first (log entry 11). -/
  bus : Option BusResponse
  /-- The MODEL's own: the events still to come, next first; after the last one every step is the sequencer's (log
  entry 1). -/
  events : List Event
  /-- The MODEL's own: which reset the unspecified contents of BUF belong to (log entries 3, 5). -/
  bufEpoch : Nat
  /-- The MODEL's own: how many undefined remainders have been drawn (log entries 5, 6). -/
  undefCount : Nat
  deriving DecidableEq, Repr

/-- Why the model stops. No rule of the block stops it: each fault is an inconsistency that no state satisfying
`Safety.Inv` has. -/
inductive Fault where
  /-- Raised by the three RESERVED_PHASE rows: PHASE holds a code 0x9 to 0xF, and 30_encoding.md R116 says a model
  faults. Safe: the block never holds one. -/
  | reservedPhase (code : U4)
  /-- Raised by FILL_STEP, BOUNCE_INIT and BOUNCE_STEP: the entry's index is not below BUF_WORDS_MAX, so the entry does
  not exist (20_memory.md R80). Safe: the block never makes such an access (R81). -/
  | noSuchEntry (index : Nat)
  deriving DecidableEq, Repr

/-- Why an instruction has no meaning. -/
inductive Refusal where
  /-- Raised by an arm of `exec` for an instruction that has no meaning yet. Safe. No arm raises it. -/
  | notModelled (mnemonic : String)
  deriving DecidableEq, Repr

/-- Four zero words. -/
def Quad.zero : Quad := ⟨0#64, 0#64, 0#64, 0#64⟩

/-- The reset value of the DIGEST registers (R48). -/
def Digest.zero : Digest := ⟨0#32, 0#32, 0#32, 0#32, 0#32, 0#32, 0#32, 0#32⟩

/-- The reset value of BUF_LEN: min(1,048,576, BUF_WORDS_MAX) (R47). -/
def resetLength (bufWordsMax : U32) : U32 :=
  if bufWordsMax < 0x00100000#32 then bufWordsMax else 0x00100000#32

/-- The state right after reset, for given parameters: the table of 70_reset_and_hazards.md R320. -/
def State.resetFor (p : Config.Params) : State where
  params := p
  lh := Quad.zero
  gen := Quad.zero
  seed := p.seedInit
  nonce := 0#32
  acc := 0#64
  phase := 0x0#4
  fidx := 0#32
  round := 0#11
  diffL := 0#8
  nL := 0#32
  err := ErrCode.none
  diff := 12#8
  bufLen := resetLength p.bufWordsMax
  digest := Digest.zero
  buf := []
  bus := Option.none
  events := []
  bufEpoch := 0
  undefCount := 0

/-- The machine right after reset, with the default parameters (00_scope.md R11, R13). -/
def State.reset : State := State.resetFor Config.Params.default

end Sys2Proof.Machine
end

