-- ==== Sys2Proof/Machine/Ops.lean ====
section
/-! DEFINITION. The named operations over the state: phase codes, the work buffer, recording an error (the block's one
form of exception), the bus response, the reset event. -/

namespace Sys2Proof.Machine

/-- What a step answers. -/
abbrev Result := Host.Outcome State Fault Refusal

/-! The phase codes of 30_encoding.md R115. -/

/-- IDLE, 0x0. -/
abbrev phIdle : U4 := 0x0#4
/-- SEED, 0x1. -/
abbrev phSeed : U4 := 0x1#4
/-- DERIVE, 0x2. -/
abbrev phDerive : U4 := 0x2#4
/-- FILL, 0x3. -/
abbrev phFill : U4 := 0x3#4
/-- BINIT, 0x4. -/
abbrev phBinit : U4 := 0x4#4
/-- BOUNCE, 0x5. -/
abbrev phBounce : U4 := 0x5#4
/-- TEST, 0x6. -/
abbrev phTest : U4 := 0x6#4
/-- INCR, 0x7. -/
abbrev phIncr : U4 := 0x7#4
/-- FOUND, 0x8. -/
abbrev phFound : U4 := 0x8#4

/-- The busy phases, SEED to INCR (10_state.md R45, 45_search_fsm.md R251). -/
def isBusy (p : U4) : Bool :=
  decide (p = phSeed) || decide (p = phDerive) || decide (p = phFill) || decide (p = phBinit) ||
    decide (p = phBounce) || decide (p = phTest) || decide (p = phIncr)

/-! The work buffer (20_memory.md R80 to R84). -/

/-- The form of a buffer: indexes strictly rising. An entry nothing has written since reset is not listed; it reads as a
free value, which no listed value can be proved equal to (log entry 3). -/
def Memory.wf : Memory → Bool
  | [] => true
  | [_] => true
  | (i, _) :: (j, w) :: m => decide (i < j) && Memory.wf ((j, w) :: m)

/-- The value listed for entry `j`, none where nothing has written it since reset. -/
def bufLookup : Memory → Nat → Option U64
  | [], _ => Option.none
  | (i, v) :: m, j => if i = j then some v else bufLookup m j

/-- `v` in entry `j`, every other entry as before; keeps the indexes rising. -/
def bufStore : Memory → Nat → U64 → Memory
  | [], j, v => [(j, v)]
  | (i, w) :: m, j, v =>
    if j < i then (j, v) :: (i, w) :: m
    else if j = i then (j, v) :: m
    else (i, w) :: bufStore m j v

/-- Entry `j` exists (20_memory.md R80). -/
def entryExists (s : State) (j : Nat) : Bool := decide (j < s.params.bufWordsMax.toNat)

/-- What entry `j` holds: the value last written, and a free value while nothing has written it since reset (R82; log
entry 3). -/
def bufValue (s : State) (j : Nat) : U64 :=
  (bufLookup s.buf j).getD (Config.bufUnspecified s.bufEpoch j)

/-- MemRead(j, 8) (00_scope.md R19, 20_memory.md R82): its value goes to `k`; a fault where entry `j` does not exist. -/
def memRead (s : State) (j : Nat) (k : U64 → Result) : Result :=
  if entryExists s j then k (bufValue s j) else .fault (.noSuchEntry j)

/-- `s` with `v` in entry `j` of BUF, and nothing else changed (R82). -/
def storeEntry (s : State) (j : Nat) (v : U64) : State := { s with buf := bufStore s.buf j v }

/-- MemWrite(j, 8, v) (R19, R82): the state after it goes to `k`; a fault where entry `j` does not exist. -/
def memWrite (s : State) (j : Nat) (v : U64) (k : State → Result) : Result :=
  if entryExists s j then k (storeEntry s j v) else .fault (.noSuchEntry j)

/-! Errors (60_exceptions.md R296): the block has no trap; an error is a code in ERR. -/

/-- What ERR holds after an error `e` when it held `old`: the first error since reset or CLRERR (R296). -/
def firstError (old e : ErrCode) : ErrCode := if old = ErrCode.none then e else old

/-- `raise E(code)`: records the error if none is recorded, and changes nothing else (R20, R296). -/
def raise (e : ErrCode) (s : State) : State :=
  { s with err := firstError s.err e }

/-- What ends a recorded error: ERR <- NONE (R298, 45_search_fsm.md R254). -/
def clearErr (s : State) : State := { s with err := ErrCode.none }

/-- The answer the block gives a host access on the bus (20_memory.md R86, R87). -/
def respond (r : BusResponse) (s : State) : State := { s with bus := some r }

/-- The reset event (70_reset_and_hazards.md R320): every element at its reset value at once, BUF unspecified anew. The
parameters and the events still to come are not the block's to reset (log entries 1, 4). -/
def resetEvent (s : State) : State :=
  { State.resetFor s.params with
    events := s.events
    bufEpoch := s.bufEpoch + 1
    undefCount := s.undefCount }

end Sys2Proof.Machine
end

