-- ==== Sys2Proof/Machine/Operands.lean ====
section
/-! DEFINITION. The assembled operands of the micro-operations (30_encoding.md R117) and the functions that make them:
the digest loader (40_loader.md), the generator (41_prng.md) and the bounce index (43_bounce.md). -/

namespace Sys2Proof.Machine

/-! digest_to_longword_loader. -/

/-- The four digest bytes a DIGEST register holds, the first in bits [31:24] (10_state.md R48). -/
def registerBytes (r : U32) : List U8 :=
  [r.extractLsb' 24 8, r.extractLsb' 16 8, r.extractLsb' 8 8, r.extractLsb' 0 8]

/-- The 32 digest bytes d[0] .. d[31] of the DIGEST registers (10_state.md R48). -/
def digestBytes (d : Digest) : List U8 :=
  registerBytes d.d0 ++ registerBytes d.d1 ++ registerBytes d.d2 ++ registerBytes d.d3 ++
    registerBytes d.d4 ++ registerBytes d.d5 ++ registerBytes d.d6 ++ registerBytes d.d7

/-- `word = (word << 8) | byte` over the bytes in order (40_loader.md R140). -/
def packBytes (bytes : List U8) : U64 :=
  bytes.foldl (fun w b => (w <<< 8) ||| b.setWidth 64) 0#64

/-- LoadLongHash(d) (40_loader.md R140): word l is packed from bytes 8l .. 8l+7. -/
def loadLongHash (d : List U8) : Quad where
  w0 := packBytes (d.take 8)
  w1 := packBytes ((d.drop 8).take 8)
  w2 := packBytes ((d.drop 16).take 8)
  w3 := packBytes ((d.drop 24).take 8)

/-! xoshiro256_prng_engine. -/

/-- rotl64(x, k) for 1 <= k <= 63 (00_scope.md R17). -/
def rotl64 (x : U64) (k : Nat) : U64 := (x <<< k) ||| (x >>> (64 - k))

/-- PrngNext(S) (41_prng.md R160): the output and the next state, the source's nine steps in order. -/
def prngNext (g : Quad) : U64 × Quad :=
  let r := g.w0 + g.w3
  let temp := g.w1 <<< 17
  let s2 := g.w2 ^^^ g.w0
  let s3 := g.w3 ^^^ g.w1
  let s1 := g.w1 ^^^ s2
  let s0 := g.w0 ^^^ s3
  let s2 := s2 ^^^ temp
  let s3 := rotl64 s3 45
  (r, ⟨s0, s1, s2, s3⟩)

/-- S[i] <- LH[i] ^ SEED, the same seed for all four words (45_search_fsm.md R261). -/
def deriveState (lh : Quad) (seed : U64) : Quad :=
  ⟨lh.w0 ^^^ seed, lh.w1 ^^^ seed, lh.w2 ^^^ seed, lh.w3 ^^^ seed⟩

/-! memory_bounce_accumulator. -/

/-- INDEX_MASK (00_scope.md R11). -/
abbrev indexMask : U64 := 0x000000007FFFFFFF#64

/-- ROUNDS (00_scope.md R11), in the 11 bits of ROUND. -/
abbrev rounds : BitVec 11 := 1024#11

/-- BounceIndex(r, n) for n >= 1 (43_bounce.md R200). -/
def bounceIndex (r : U64) (n : U32) : U32 :=
  ((r &&& indexMask) % n.setWidth 64).setWidth 32

end Sys2Proof.Machine
end

