-- ==== Sys2Proof/Machine/Flags.lean ====
section
/-! DEFINITION. The leading-zero detector and its predicate (44_leading_zero.md), the STATUS word (10_state.md R45) and
the output signal done_o (R55). The block has no other flags (00_scope.md R23). -/

namespace Sys2Proof.Machine

/-- The index of the highest set bit of `x` among its low `k` bits. -/
def highestSetBit (x : U64) : Nat → Option Nat
  | 0 => Option.none
  | k + 1 => if x.getLsbD k then some k else highestSetBit x k

/-- LZC64(x) (44_leading_zero.md R230): 64 for 0, else 63 minus the index of the highest set bit. -/
def lzc64 (x : U64) : Nat :=
  match highestSetBit x 64 with
  | Option.none => 64
  | some i => 63 - i

/-- Pass(acc, diff) (R231), compared as non-negative integers. -/
def passes (acc : U64) (diff : U8) : Bool := decide (diff.toNat ≤ lzc64 acc)

/-- The code of an error (60_exceptions.md R290). -/
def errBits : ErrCode → U4
  | .none => 0x0#4
  | .badCmd => 0x1#4
  | .busyStart => 0x2#4
  | .badBufLen => 0x3#4
  | .busErr => 0x4#4

/-- STATUS.FOUND (10_state.md R45). -/
def isFound (p : U4) : Bool := decide (p = phFound)

/-- STATUS (10_state.md R45): [31:12] 0, [11:8] ERR, [7:4] PHASE, [3:2] 0, [1] FOUND, [0] BUSY. -/
def statusWord (s : State) : U32 :=
  0#20 ++ errBits s.err ++ s.phase ++ 0#2 ++ BitVec.ofBool (isFound s.phase) ++ BitVec.ofBool (isBusy s.phase)

/-- done_o, the block's output signal: 1 exactly while PHASE = FOUND (10_state.md R55). -/
def doneO (s : State) : Bool := isFound s.phase

end Sys2Proof.Machine
end

