-- ==== Sys2Proof/Machine/Bounce.lean ====
section
/-! DEFINITION. memory_bounce_accumulator: the micro-operations of phases BINIT and BOUNCE (43_bounce.md). -/

namespace Sys2Proof.Machine

/-- BOUNCE_INIT (43_bounce.md R205). -/
def execBounceInit (s : State) : Result :=
  memRead s 0 fun v => .next { s with acc := v, round := 0#11, phase := phBounce }

/-- PHASE after a BOUNCE_STEP that leaves `round` in ROUND: TEST when it is 1024, else unchanged (R206). -/
def phaseAfterRound (round : BitVec 11) (p : U4) : U4 := if round = rounds then phTest else p

/-- What BOUNCE_STEP does with the buffer word `v` (43_bounce.md R206): fold it into ACC, count the round, TEST after the
1024th. -/
def bounceFold (g : Quad) (v : U64) (s : State) : State :=
  { s with
    gen := g
    acc := s.acc ^^^ v
    round := s.round + 1#11
    phase := phaseAfterRound (s.round + 1#11) s.phase }

/-- BOUNCE_STEP (43_bounce.md R206). With N_L = 0, which no accepted START leaves, the remainder is undefined
(00_scope.md R17) and the word folded in is a free value (log entry 6). -/
def execBounceStep (s : State) : Result :=
  let rg := prngNext s.gen
  if s.nL = 0#32 then
    .next (bounceFold rg.2 (Config.bounceUndefined s.undefCount) { s with undefCount := s.undefCount + 1 })
  else
    memRead s (bounceIndex rg.1 s.nL).toNat fun v => .next (bounceFold rg.2 v s)

end Sys2Proof.Machine
end

