-- ==== Sys2Proof/Machine/Commands.lean ====
section
/-! DEFINITION. The host commands (45_search_fsm.md section 2): what a write to CTRL performs. The ignored bits of the
command word have no effect (30_encoding.md R111). -/

namespace Sys2Proof.Machine

/-- An accepted START (R251): latch the inputs, seed and nonce at their start values, PHASE <- SEED. -/
def acceptStart (s : State) : State :=
  { s with
    lh := loadLongHash (digestBytes s.digest)
    diffL := s.diff
    nL := s.bufLen
    seed := s.params.seedInit
    nonce := 0#32
    phase := phSeed }

/-- BUF_LEN = 0 or BUF_LEN > BUF_WORDS_MAX (R251, 60_exceptions.md R292). -/
def badLength (s : State) : Bool :=
  decide (s.bufLen = 0#32) || decide (s.params.bufWordsMax < s.bufLen)

/-- NOP (R253). -/
def execNop (_ign : BitVec 28) (s : State) : Result := .next s

/-- START (R251), its two refusals in the order of 60_exceptions.md R295. -/
def execStart (_ign : BitVec 28) (s : State) : Result :=
  if isBusy s.phase then .next (raise .busyStart s)
  else if badLength s then .next (raise .badBufLen s)
  else .next (acceptStart s)

/-- ABORT (R252). -/
def execAbort (_ign : BitVec 28) (s : State) : Result := .next { s with phase := phIdle }

/-- CLRERR (R254). -/
def execClrerr (_ign : BitVec 28) (s : State) : Result := .next (clearErr s)

/-- RESERVED_CMD, codes 0x4 to 0x7 (R255, 60_exceptions.md R291). -/
def execReservedCmdLow (_code : U4) (_ign : BitVec 28) (s : State) : Result := .next (raise .badCmd s)

/-- RESERVED_CMD, codes 0x8 to 0xF (R255, 60_exceptions.md R291). -/
def execReservedCmdHigh (_code : U4) (_ign : BitVec 28) (s : State) : Result := .next (raise .badCmd s)

end Sys2Proof.Machine
end

