-- ==== Sys2Proof/Machine/Fill.lean ====
section
/-! DEFINITION. buffer_fill_sequencer: the micro-operation of phase FILL (42_buffer_fill.md). -/

namespace Sys2Proof.Machine

/-- PHASE after a FILL_STEP that leaves `fidx` in FIDX: BINIT when it is N_L, else unchanged (R181). -/
def phaseAfterFill (fidx nL : U32) (p : U4) : U4 := if fidx = nL then phBinit else p

/-- What FILL_STEP does beside its buffer write (42_buffer_fill.md R181): the generator state, the next index, and BINIT
after the last entry. -/
def fillAdvance (g : Quad) (s : State) : State :=
  { s with
    gen := g
    fidx := s.fidx + 1#32
    phase := phaseAfterFill (s.fidx + 1#32) s.nL s.phase }

/-- FILL_STEP (R181). -/
def execFillStep (s : State) : Result :=
  let rg := prngNext s.gen
  memWrite s s.fidx.toNat rg.1 fun t => .next (fillAdvance rg.2 t)

end Sys2Proof.Machine
end

