-- ==== Sys2Proof/Machine/Search.lean ====
section
/-! DEFINITION. nonce_search_fsm: the micro-operations of phases IDLE, SEED, DERIVE, TEST, INCR and FOUND
(45_search_fsm.md sections 3 and 4) and of the reserved phase codes (30_encoding.md R116). -/

namespace Sys2Proof.Machine

/-- IDLE_HOLD (45_search_fsm.md R256): no step; nothing changes (log entry 15). -/
def execIdleHold (s : State) : Result := .next s

/-- SEED_ADVANCE (R260): the product mod 2^64. -/
def execSeedAdvance (s : State) : Result :=
  .next { s with seed := s.seed * s.params.seedMult, phase := phDerive }

/-- STATE_DERIVE (R261). -/
def execStateDerive (s : State) : Result :=
  .next { s with gen := deriveState s.lh s.seed, fidx := 0#32, phase := phFill }

/-- PHASE after the test: FOUND on success, INCR on failure (R262). -/
def phaseAfterTest (acc : U64) (diffL : U8) : U4 := if passes acc diffL then phFound else phIncr

/-- DIFF_TEST (R262). -/
def execDiffTest (s : State) : Result :=
  .next { s with phase := phaseAfterTest s.acc s.diffL }

/-- NONCE_INC (R263): mod 2^32. -/
def execNonceInc (s : State) : Result :=
  .next { s with nonce := s.nonce + 1#32, phase := phSeed }

/-- FOUND_HOLD (R257): no step; nothing changes (log entry 15). -/
def execFoundHold (s : State) : Result := .next s

/-- RESERVED_PHASE 0x9: a model that finds the code in PHASE faults (30_encoding.md R116). -/
def execReservedPhase9 (_s : State) : Result := .fault (.reservedPhase 0x9#4)

/-- RESERVED_PHASE 0xA and 0xB: a model that finds the code in PHASE faults (R116). -/
def execReservedPhaseAB (code : U4) (_s : State) : Result := .fault (.reservedPhase code)

/-- RESERVED_PHASE 0xC to 0xF: a model that finds the code in PHASE faults (R116). -/
def execReservedPhaseCF (code : U4) (_s : State) : Result := .fault (.reservedPhase code)

end Sys2Proof.Machine
end

