-- ==== Sys2Proof/Machine/Dispatch.lean ====
section
/-! DEFINITION. exec: one arm per instruction, each one call of its meaning. -/

namespace Sys2Proof.Machine

def exec (i : Instr) (s : State) : Host.Outcome State Fault Refusal :=
  match i with
  | .nop ign => Sys2Proof.Machine.execNop ign s
  | .start ign => Sys2Proof.Machine.execStart ign s
  | .abort ign => Sys2Proof.Machine.execAbort ign s
  | .clrerr ign => Sys2Proof.Machine.execClrerr ign s
  | .reservedCmdLow code ign => Sys2Proof.Machine.execReservedCmdLow code ign s
  | .reservedCmdHigh code ign => Sys2Proof.Machine.execReservedCmdHigh code ign s
  | .idleHold => Sys2Proof.Machine.execIdleHold s
  | .seedAdvance => Sys2Proof.Machine.execSeedAdvance s
  | .stateDerive => Sys2Proof.Machine.execStateDerive s
  | .fillStep => Sys2Proof.Machine.execFillStep s
  | .bounceInit => Sys2Proof.Machine.execBounceInit s
  | .bounceStep => Sys2Proof.Machine.execBounceStep s
  | .diffTest => Sys2Proof.Machine.execDiffTest s
  | .nonceInc => Sys2Proof.Machine.execNonceInc s
  | .foundHold => Sys2Proof.Machine.execFoundHold s
  | .reservedPhase9 => Sys2Proof.Machine.execReservedPhase9 s
  | .reservedPhaseAB code => Sys2Proof.Machine.execReservedPhaseAB code s
  | .reservedPhaseCF code => Sys2Proof.Machine.execReservedPhaseCF code s

end Sys2Proof.Machine
end

