-- ==== Sys2Proof/Machine/Window.lean ====
section
/-! DEFINITION. The host register window (10_state.md section 4): the map of R43, and what a supported read or write of
each register does. A write to CTRL performs a command and is in Access.lean. -/

namespace Sys2Proof.Machine

/-- A register of the window (10_state.md R43). -/
inductive Reg where
  | ctrl
  | status
  | difficulty
  | bufLen
  | digest (k : Fin 8)
  | nonce
  | bufMax
  | resultLo
  | resultHi
  | seedLo
  | seedHi
  /-- Offsets 0x48 to 0xFC (R54). -/
  | reserved
  deriving DecidableEq, Repr

/-- The register at a 4-byte-aligned offset (R43). -/
def regAt (off : U8) : Reg :=
  match off.toNat with
  | 0x00 => .ctrl
  | 0x04 => .status
  | 0x08 => .difficulty
  | 0x0C => .bufLen
  | 0x10 => .digest 0
  | 0x14 => .digest 1
  | 0x18 => .digest 2
  | 0x1C => .digest 3
  | 0x20 => .digest 4
  | 0x24 => .digest 5
  | 0x28 => .digest 6
  | 0x2C => .digest 7
  | 0x30 => .nonce
  | 0x34 => .bufMax
  | 0x38 => .resultLo
  | 0x3C => .resultHi
  | 0x40 => .seedLo
  | 0x44 => .seedHi
  | _ => .reserved

/-- DIGESTk (R48). -/
def digestGet (d : Digest) (k : Fin 8) : U32 :=
  match k with
  | 0 => d.d0
  | 1 => d.d1
  | 2 => d.d2
  | 3 => d.d3
  | 4 => d.d4
  | 5 => d.d5
  | 6 => d.d6
  | 7 => d.d7

/-- DIGESTk <- v (R48). -/
def digestSet (d : Digest) (k : Fin 8) (v : U32) : Digest :=
  match k with
  | 0 => { d with d0 := v }
  | 1 => { d with d1 := v }
  | 2 => { d with d2 := v }
  | 3 => { d with d3 := v }
  | 4 => { d with d4 := v }
  | 5 => { d with d5 := v }
  | 6 => { d with d6 := v }
  | 7 => { d with d7 := v }

/-- The 32-bit value a supported read returns (R44 to R54), computed from the state at the moment of the read. -/
def regRead (s : State) : Reg → U32
  | .ctrl => 0#32
  | .status => statusWord s
  | .difficulty => s.diff.setWidth 32
  | .bufLen => s.bufLen
  | .digest k => digestGet s.digest k
  | .nonce => s.nonce
  | .bufMax => s.params.bufWordsMax
  | .resultLo => s.acc.extractLsb' 0 32
  | .resultHi => s.acc.extractLsb' 32 32
  | .seedLo => s.seed.extractLsb' 0 32
  | .seedHi => s.seed.extractLsb' 32 32
  | .reserved => 0#32

/-- What a supported write stores (R46 to R49, R54): read-only registers and reserved offsets ignore it. CTRL keeps no
state (R44); its command is performed by `hostAccess`. -/
def regWrite (s : State) (r : Reg) (v : U32) : State :=
  match r with
  | .ctrl => s
  | .status => s
  | .difficulty => { s with diff := v.extractLsb' 0 8 }
  | .bufLen => { s with bufLen := v }
  | .digest k => { s with digest := digestSet s.digest k v }
  | .nonce => s
  | .bufMax => s
  | .resultLo => s
  | .resultHi => s
  | .seedLo => s
  | .seedHi => s
  | .reserved => s

/-- The offset in the window of a platform address, none for an address outside it (10_state.md R43, 20_memory.md R85;
log entry 12). -/
def offsetOf (p : Config.Params) (addr : Nat) : Option U8 :=
  if p.base ≤ addr ∧ addr < p.base + 256 then some (BitVec.ofNat 8 (addr - p.base)) else Option.none

/-- The offset is a multiple of 4 (20_memory.md R86). -/
def aligned (off : U8) : Bool := decide (off.extractLsb' 0 2 = 0#2)

end Sys2Proof.Machine
end

