-- ==== Sys2Proof/Machine/Access.lean ====
section
/-! DEFINITION. The atomic events of the interleaving (20_memory.md R95): a host access with its answer on the bus, a
micro-step of the sequencer, reset; and how an instruction is placed so that the next step runs it. -/

namespace Sys2Proof.Machine

/-- The answer to a supported read (20_memory.md R86). -/
def readOk (v : U32) : BusResponse := ⟨false, some v⟩

/-- The answer to a supported write. -/
def writeOk : BusResponse := ⟨false, Option.none⟩

/-- The answer to an unsupported read: an error response with data 0 (20_memory.md R87). -/
def readError : BusResponse := ⟨true, some 0#32⟩

/-- The answer to an unsupported write (20_memory.md R87). -/
def writeError : BusResponse := ⟨true, Option.none⟩

/-- An unsupported access: not performed, an error response, `raise BUS_ERR` (20_memory.md R87, 60_exceptions.md
R294). -/
def busError (r : BusResponse) (s : State) : State := raise .busErr (respond r s)

/-- A read of the window at offset `off` (20_memory.md R86, R87). -/
def windowRead (s : State) (off : U8) (width : Width) : State :=
  if aligned off ∧ width = .w32 then respond (readOk (regRead s (regAt off))) s else busError readError s

/-- A supported 32-bit write: a command for CTRL, decoded and performed in the same access (10_state.md R44,
30_encoding.md R111), else a register write. -/
def windowWrite32 (s : State) (r : Reg) (v : U32) : Result :=
  if r = .ctrl then exec (decode (.command v)) (respond writeOk s)
  else .next (regWrite (respond writeOk s) r v)

/-- A write of the window at offset `off` (20_memory.md R86, R87). -/
def windowWrite (s : State) (off : U8) : WriteData → Result
  | .w32 v => if aligned off then windowWrite32 s (regAt off) v else .next (busError writeError s)
  | .w8 _ => .next (busError writeError s)
  | .w16 _ => .next (busError writeError s)
  | .w64 _ => .next (busError writeError s)

/-- A host access. One outside the window does not select the block (log entry 12). -/
def hostAccess (a : HostAccess) (s : State) : Result :=
  match a with
  | .read addr width =>
    match offsetOf s.params addr with
    | some off => .next (windowRead s off width)
    | Option.none => .next s
  | .write addr data =>
    match offsetOf s.params addr with
    | some off => windowWrite s off data
    | Option.none => .next s

/-- The micro-operation the sequencer performs next: the one of PHASE (30_encoding.md R115, 45_search_fsm.md R250). -/
def nextMicroOp (s : State) : Instr := decode (.phase s.phase)

/-- One turn of the sequencer (45_search_fsm.md R250). -/
def sequencerTurn (s : State) : Result := exec (nextMicroOp s) s

/-- One atomic event (20_memory.md R95). -/
def perform (e : Event) (s : State) : Result :=
  match e with
  | .seq => sequencerTurn s
  | .host a => hostAccess a s
  | .reset => .next (resetEvent s)

/-- The next event of the interleaving, and after the last listed one a turn of the sequencer (20_memory.md R95; log
entry 1). -/
def advance (s : State) : Result :=
  match s.events with
  | [] => perform .seq s
  | e :: rest => perform e { s with events := rest }

/-- `s` with the code placed so that the next step runs it: a command word as the host's next access, a write to CTRL; a
phase code in PHASE with the next turn the sequencer's. Bits that are no code place nothing. -/
def placeCode (s : State) : Except DecodeReject Code → State
  | .ok (.command w) => { s with events := .host (.write s.params.base (.w32 w)) :: s.events }
  | .ok (.phase p) => { s with phase := p, events := .seq :: s.events }
  | .error _ => s

end Sys2Proof.Machine
end

