-- ==== Sys2Proof/Machine/Step.lean ====
section
/-! DEFINITION. One step of the machine: the next event of the interleaving (20_memory.md R95), and after the last listed
one a turn of the sequencer (log entry 1). -/

namespace Sys2Proof.Machine

/-- One step. -/
def step (s : State) : Host.Outcome State Fault Refusal := advance s

/-- `s` with the instruction whose bits are `w` placed so that the very next step runs it (log entry 14). -/
def State.withFetchWord (s : State) (nbits w : Nat) : State := placeCode s (codeOfBits nbits w)

end Sys2Proof.Machine
end

