-- ==== Sys2Proof/Machine/Attempt.lean ====
section
/-! DEFINITION. One attempt and one search as functions (42_buffer_fill.md R180, 43_bounce.md R207, 45_search_fsm.md
R264), which the spec says the micro-steps equal. Statements compare the machine with them; the machine does not use
them. -/

namespace Sys2Proof.Machine

/-- Fill(S, n) (R180): the n outputs written, front to back, and the state after n calls. -/
def fillOutputs (g : Quad) : Nat → List U64 × Quad
  | 0 => ([], g)
  | n + 1 =>
    let rg := prngNext g
    let rest := fillOutputs rg.2 n
    (rg.1 :: rest.1, rest.2)

/-- `k` rounds of R207 over the buffer `read`, from accumulator `acc` and generator state `g`. -/
def bounceRounds (read : Nat → U64) (n : U32) : Nat → U64 → Quad → U64 × Quad
  | 0, acc, g => (acc, g)
  | k + 1, acc, g =>
    let rg := prngNext g
    bounceRounds read n k (acc ^^^ read (bounceIndex rg.1 n).toNat) rg.2

/-- Bounce(S, n) (R207): ACC starts at BUF[0]; exactly 1024 rounds. -/
def bounce (read : Nat → U64) (g : Quad) (n : U32) : U64 × Quad :=
  bounceRounds read n 1024 (read 0) g

/-- The buffer a fill leaves, as a function of the index; entries at `n` and above are never read (R84, R201). -/
def filledBuffer (outputs : List U64) (j : Nat) : U64 := outputs.getD j 0#64

/-- Attempt(LH, seed, n), the seed already advanced (R264): the accumulator and the generator state after it. -/
def attempt (lh : Quad) (seed : U64) (n : U32) : U64 × Quad :=
  let f := fillOutputs (deriveState lh seed) n.toNat
  bounce (filledBuffer f.1) f.2 n

/-- SEED after `k` SEED_ADVANCEs of a search: SEED_INIT * SEED_MULT^k mod 2^64 (10_state.md R56). -/
def seedChain (p : Config.Params) : Nat → U64
  | 0 => p.seedInit
  | k + 1 => seedChain p k * p.seedMult

/-- The accumulator of attempt number `k + 1` of a search (R264): its seed is that after `k + 1` advances (R56). -/
def searchAcc (p : Config.Params) (lh : Quad) (n : U32) (k : Nat) : U64 :=
  (attempt lh (seedChain p (k + 1)) n).1

end Sys2Proof.Machine
end

