-- ==== Sys2Proof/Safety.lean ====
section
/-! DEFINITION. What counts as a safe state (the invariant the rules promise), which events the search does not see, and
the part of the state it runs on: the terms the statements use. -/

namespace Sys2Proof.Machine

/-- Entry `j` has been written since the last reset. -/
def written (s : State) (j : Nat) : Bool := (bufLookup s.buf j).isSome

/-- BINIT to FOUND: the phases after the attempt's fill (20_memory.md R83). -/
def afterFill (p : U4) : Bool :=
  decide (p = phBinit) || decide (p = phBounce) || decide (p = phTest) || decide (p = phIncr) || decide (p = phFound)

/-- TEST to FOUND: the phases after the attempt's 1024 rounds. -/
def afterBounce (p : U4) : Bool :=
  decide (p = phTest) || decide (p = phIncr) || decide (p = phFound)

/-- The states the rules allow: what the spec says holds of the state between any two atomic events. -/
structure Inv (s : State) : Prop where
  /-- The parameters are in their ranges (92_eei_decisions.md, parameter table). -/
  params : s.params.wf = true
  /-- The buffer list is in its canonical form. -/
  bufForm : Memory.wf s.buf = true
  /-- Only entries that exist are written (20_memory.md R80). -/
  bufRange : ∀ j, written s j = true → j < s.params.bufWordsMax.toNat
  /-- PHASE holds no reserved code (30_encoding.md R116). -/
  phaseLegal : s.phase.toNat ≤ 8
  /-- ROUND is at most 1024 (10_state.md R38). -/
  roundRange : s.round.toNat ≤ 1024
  /-- FIDX never passes the end of the buffer (10_state.md R42). -/
  fidxRange : s.fidx.toNat ≤ s.params.bufWordsMax.toNat
  /-- A search has a length in 1 .. BUF_WORDS_MAX (10_state.md R39). -/
  length : s.phase ≠ phIdle → 1 ≤ s.nL.toNat ∧ s.nL.toNat ≤ s.params.bufWordsMax.toNat
  /-- FILL writes below N_L, and has written every entry below FIDX (42_buffer_fill.md R181, R182). -/
  filling : s.phase = phFill → s.fidx.toNat < s.nL.toNat ∧ ∀ j, j < s.fidx.toNat → written s j = true
  /-- After the fill every entry below N_L is written (20_memory.md R83). -/
  filled : afterFill s.phase = true → s.fidx = s.nL ∧ ∀ j, j < s.nL.toNat → written s j = true
  /-- BOUNCE has rounds left (43_bounce.md R206). -/
  bouncing : s.phase = phBounce → s.round.toNat < 1024
  /-- TEST is reached only after the 1024th round (R206). -/
  bounced : afterBounce s.phase = true → s.round = rounds
  /-- FOUND is reached only by a passing result (45_search_fsm.md R262), which stays readable (10_state.md R52). -/
  foundPasses : s.phase = phFound → passes s.acc s.diffL = true
  /-- INCR is reached only by a failing result (R262). -/
  incrFails : s.phase = phIncr → passes s.acc s.diffL = false

/-- The part of the state the search runs on (45_search_fsm.md R250): everything but the host registers, ERR, the bus and
the events to come. -/
structure Datapath where
  params : Config.Params
  lh : Quad
  gen : Quad
  seed : U64
  nonce : U32
  acc : U64
  phase : U4
  fidx : U32
  round : BitVec 11
  diffL : U8
  nL : U32
  buf : Memory
  bufEpoch : Nat
  undefCount : Nat
  deriving DecidableEq, Repr

/-- The datapath of a state. -/
def datapath (s : State) : Datapath where
  params := s.params
  lh := s.lh
  gen := s.gen
  seed := s.seed
  nonce := s.nonce
  acc := s.acc
  phase := s.phase
  fidx := s.fidx
  round := s.round
  diffL := s.diffL
  nL := s.nL
  buf := s.buf
  bufEpoch := s.bufEpoch
  undefCount := s.undefCount

/-- The access is a command: a supported write to CTRL (10_state.md R44). -/
def isCommand (p : Config.Params) : HostAccess → Bool
  | .write addr (.w32 _) =>
    match offsetOf p addr with
    | some off => aligned off && decide (regAt off = .ctrl)
    | Option.none => false
  | .write _ _ => false
  | .read _ _ => false

/-- The event is neither a command nor a reset (the proviso of 45_search_fsm.md R265). -/
def quiet (p : Config.Params) : Event → Bool
  | .seq => true
  | .host a => !isCommand p a
  | .reset => false

/-- The command an event performs, if it is one (10_state.md R44, 30_encoding.md R111). -/
def commandOf (p : Config.Params) : Event → Option Instr
  | .host (.write addr (.w32 v)) => if isCommand p (.write addr (.w32 v)) then some (decode (.command v)) else Option.none
  | .host _ => Option.none
  | .seq => Option.none
  | .reset => Option.none

/-- The event the next step performs (log entry 1). -/
def nextEvent (s : State) : Event :=
  match s.events with
  | [] => .seq
  | e :: _ => e

/-- The state the next event acts on: the event taken off the list. -/
def takeEvent (s : State) : State := { s with events := s.events.tail }

/-- `n` steps from `s`, up to the first fault or refusal. -/
def runSteps : Nat → State → Result
  | 0, s => .next s
  | n + 1, s =>
    match step s with
    | .next t => runSteps n t
    | .fault r => .fault r
    | .refused r => .refused r

end Sys2Proof.Machine
end

