-- ==== Sys2Proof/Certificates/Slice0/Obligations.lean ====
section
/-! DEFINITION. The statements about the model, for the provers. Each docstring names the rule of spec/ it formalises, or
says that it is the model's own. Every statement is over all states, hence over all parameters (log entry 2), all events
still to come (log entry 1) and all contents of the buffer. -/

open Sys2Proof Sys2Proof.Machine

/-! Encoding. -/

/-- The decoder reads back every well-formed instruction from its code, and every code decodes to a well-formed
instruction whose code it is: no bit of a code is dropped (30_encoding.md R112, R113, R115). -/
def Obligations.DecodeEncodeAgree : Prop :=
  (∀ i : Instr, i.wellFormed = true → decode (encode i) = i) ∧
  (∀ c : Code, (decode c).wellFormed = true ∧ encode (decode c) = c)

/-- 30_encoding.md R113: every CTRL write data value decodes, by bits [3:0] alone, to exactly one row. -/
def Obligations.CommandDecoderTotalByLowBits : Prop :=
  ∀ w : U32,
    (w.extractLsb' 0 4 = 0x0#4 → ∃ g, decode (.command w) = .nop g) ∧
    (w.extractLsb' 0 4 = 0x1#4 → ∃ g, decode (.command w) = .start g) ∧
    (w.extractLsb' 0 4 = 0x2#4 → ∃ g, decode (.command w) = .abort g) ∧
    (w.extractLsb' 0 4 = 0x3#4 → ∃ g, decode (.command w) = .clrerr g) ∧
    (4 ≤ (w.extractLsb' 0 4).toNat → (w.extractLsb' 0 4).toNat ≤ 7 →
      ∃ g, decode (.command w) = .reservedCmdLow (w.extractLsb' 0 4) g) ∧
    (8 ≤ (w.extractLsb' 0 4).toNat → ∃ g, decode (.command w) = .reservedCmdHigh (w.extractLsb' 0 4) g) ∧
    (∃ r ∈ opcodeRows, r.takes (.command w) = true ∧ ∀ r' ∈ opcodeRows, r'.takes (.command w) = true → r' = r)

/-- A few codes written out from R112 and R115 decode to the instructions they stand for (a sanity statement). -/
def Obligations.SpecCodesDecode : Prop :=
  decode (.command 0x00000000#32) = .nop 0#28 ∧
  decode (.command 0xFFFFFFF1#32) = .start 0xFFFFFFF#28 ∧
  decode (.command 0x00000002#32) = .abort 0#28 ∧
  decode (.command 0x00000003#32) = .clrerr 0#28 ∧
  decode (.command 0x00000007#32) = .reservedCmdLow 0x7#4 0#28 ∧
  decode (.command 0x0000000F#32) = .reservedCmdHigh 0xF#4 0#28 ∧
  decode (.phase 0x0#4) = .idleHold ∧ decode (.phase 0x1#4) = .seedAdvance ∧ decode (.phase 0x2#4) = .stateDerive ∧
  decode (.phase 0x3#4) = .fillStep ∧ decode (.phase 0x4#4) = .bounceInit ∧ decode (.phase 0x5#4) = .bounceStep ∧
  decode (.phase 0x6#4) = .diffTest ∧ decode (.phase 0x7#4) = .nonceInc ∧ decode (.phase 0x8#4) = .foundHold ∧
  decode (.phase 0x9#4) = .reservedPhase9 ∧ decode (.phase 0xB#4) = .reservedPhaseAB 0xB#4 ∧
  decode (.phase 0xD#4) = .reservedPhaseCF 0xD#4

/-- Bits [31:4] of a command word have no effect (30_encoding.md R111, R114). -/
def Obligations.IgnoredBitsHaveNoEffect : Prop :=
  ∀ (w w' : U32) (s : State), w.extractLsb' 0 4 = w'.extractLsb' 0 4 →
    exec (decode (.command w)) s = exec (decode (.command w')) s

/-! A step runs the decoded instruction. -/

/-- When the next event is the sequencer's turn, listed or not, the step is `exec` of the instruction that PHASE decodes
to, on the state with that event taken off the list (45_search_fsm.md R250; the event list is the model's, log entry
1). -/
def Obligations.SequencerStepRunsPhase : Prop :=
  ∀ s : State, nextEvent s = .seq → step s = exec (decode (.phase s.phase)) { s with events := s.events.tail }

/-- When the next event is a 32-bit write of `w` to CTRL, the step is `exec` of the command `w` decodes to, on the state
with that event taken off the list and a write acknowledged on the bus (30_encoding.md R111; the bus field is the
model's, log entry 11). -/
def Obligations.CtrlWriteStepRunsCommand : Prop :=
  ∀ (s : State) (w : U32) (rest : List Event), s.events = .host (.write s.params.base (.w32 w)) :: rest →
    step s = exec (decode (.command w)) { s with events := rest, bus := some ⟨false, none⟩ }

/-! Commands. -/

/-- 45_search_fsm.md R253: NOP, every word with CMD 0x0, has no effect. -/
def Obligations.NopChangesNothing : Prop :=
  ∀ s : State, (∀ g, exec (.nop g) s = .next s) ∧
    ∀ w : U32, w.extractLsb' 0 4 = 0x0#4 → exec (decode (.command w)) s = .next s

/-- 45_search_fsm.md R251, 40_loader.md R141: an accepted START latches the digest as four words of two DIGEST registers
each, DIFFICULTY and BUF_LEN, loads SEED_INIT and nonce 0, goes to SEED, and changes nothing else. -/
def Obligations.StartAccepted : Prop :=
  ∀ (s : State) (g : BitVec 28),
    s.phase ∉ [0x1#4, 0x2#4, 0x3#4, 0x4#4, 0x5#4, 0x6#4, 0x7#4] →
    1 ≤ s.bufLen.toNat → s.bufLen.toNat ≤ s.params.bufWordsMax.toNat →
    exec (.start g) s = .next
      { s with
        lh := ⟨s.digest.d0 ++ s.digest.d1, s.digest.d2 ++ s.digest.d3, s.digest.d4 ++ s.digest.d5,
          s.digest.d6 ++ s.digest.d7⟩
        diffL := s.diff
        nL := s.bufLen
        seed := s.params.seedInit
        nonce := 0#32
        phase := 0x1#4 }

/-- 60_exceptions.md R292, R293, R295: a START while a search runs records BUSY_START, whatever BUF_LEN holds; one that
is not, with a length outside 1 .. BUF_WORDS_MAX, records BAD_BUF_LEN; neither changes anything else. -/
def Obligations.StartRefused : Prop :=
  ∀ (s : State) (g : BitVec 28),
    (s.phase ∈ [0x1#4, 0x2#4, 0x3#4, 0x4#4, 0x5#4, 0x6#4, 0x7#4] →
      exec (.start g) s = .next { s with err := if s.err = .none then .busyStart else s.err }) ∧
    (s.phase ∉ [0x1#4, 0x2#4, 0x3#4, 0x4#4, 0x5#4, 0x6#4, 0x7#4] →
      s.bufLen.toNat = 0 ∨ s.params.bufWordsMax.toNat < s.bufLen.toNat →
      exec (.start g) s = .next { s with err := if s.err = .none then .badBufLen else s.err })

/-- 45_search_fsm.md R252: ABORT goes to IDLE in every phase and changes nothing else; BUSY, FOUND and done_o are then
0. -/
def Obligations.AbortGoesIdle : Prop :=
  ∀ s : State,
    (∀ g, exec (.abort g) s = .next { s with phase := 0x0#4 }) ∧
    (∀ w : U32, w.extractLsb' 0 4 = 0x2#4 → exec (decode (.command w)) s = .next { s with phase := 0x0#4 }) ∧
    (statusWord { s with phase := 0x0#4 }).extractLsb' 0 8 = 0#8 ∧ doneO { s with phase := 0x0#4 } = false

/-- 45_search_fsm.md R254: CLRERR clears ERR in every phase and changes nothing else; STATUS.ERR then reads 0x0. -/
def Obligations.ClrerrClearsError : Prop :=
  ∀ s : State,
    (∀ g, exec (.clrerr g) s = .next { s with err := .none }) ∧
    (∀ w : U32, w.extractLsb' 0 4 = 0x3#4 → exec (decode (.command w)) s = .next { s with err := .none }) ∧
    (statusWord { s with err := .none }).extractLsb' 8 4 = 0x0#4

/-- 45_search_fsm.md R255, 60_exceptions.md R291: a reserved command records BAD_CMD, if no error is recorded, and
changes nothing else, in every phase. -/
def Obligations.ReservedCommandRecordsBadCmd : Prop :=
  ∀ s : State,
    (∀ c g, exec (.reservedCmdLow c g) s = .next { s with err := if s.err = .none then .badCmd else s.err }) ∧
    (∀ c g, exec (.reservedCmdHigh c g) s = .next { s with err := if s.err = .none then .badCmd else s.err }) ∧
    (∀ w : U32, 4 ≤ (w.extractLsb' 0 4).toNat →
      exec (decode (.command w)) s = .next { s with err := if s.err = .none then .badCmd else s.err })

/-! Micro-operations. -/

/-- 45_search_fsm.md R256, R257: in IDLE and in FOUND the sequencer changes nothing. That its turn is then a step that
changes nothing is the model's form (log entry 15). -/
def Obligations.HoldsChangeNothing : Prop :=
  ∀ s : State, exec .idleHold s = .next s ∧ exec .foundHold s = .next s

/-- 45_search_fsm.md R260: SEED <- SEED * SEED_MULT mod 2^64, PHASE <- DERIVE, nothing else; STATUS.PHASE reads 0x2,
SEED_LO and SEED_HI show the new seed; a seed of 4 mod 8 stays so under an odd multiplier. -/
def Obligations.SeedAdvanceMultipliesSeed : Prop :=
  ∀ s : State, ∃ t, exec .seedAdvance s = .next t ∧
    t = { s with seed := s.seed * s.params.seedMult, phase := 0x2#4 } ∧
    t.seed.toNat = s.seed.toNat * s.params.seedMult.toNat % 2 ^ 64 ∧
    (statusWord t).extractLsb' 4 4 = 0x2#4 ∧
    regRead t .seedHi ++ regRead t .seedLo = s.seed * s.params.seedMult ∧
    (s.params.seedMult.toNat % 2 = 1 → s.seed.toNat % 8 = 4 → t.seed.toNat % 8 = 4)

/-- 45_search_fsm.md R261: every word of S is the word of LH XOR the same SEED; FIDX <- 0; PHASE <- FILL; nothing
else. -/
def Obligations.StateDeriveXorsSeed : Prop :=
  ∀ s : State, exec .stateDerive s = .next
    { s with
      gen := ⟨s.lh.w0 ^^^ s.seed, s.lh.w1 ^^^ s.seed, s.lh.w2 ^^^ s.seed, s.lh.w3 ^^^ s.seed⟩
      fidx := 0#32
      phase := 0x3#4 }

/-- 42_buffer_fill.md R181: where entry FIDX exists, FILL_STEP completes; entry FIDX then reads as the generator's output
S[0] + S[3], every other entry as before; S is the next state, FIDX is one more, PHASE is BINIT exactly when the new FIDX
is N_L; no other field changes. -/
def Obligations.FillStepWritesNextOutput : Prop :=
  ∀ s : State, s.fidx.toNat < s.params.bufWordsMax.toNat → ∃ t m,
    exec .fillStep s = .next t ∧
    t = { s with
          gen := (prngNext s.gen).2
          buf := m
          fidx := s.fidx + 1#32
          phase := if s.fidx + 1#32 = s.nL then 0x4#4 else s.phase } ∧
    bufValue t s.fidx.toNat = s.gen.w0 + s.gen.w3 ∧
    ∀ j, j ≠ s.fidx.toNat → bufValue t j = bufValue s j ∧ written t j = written s j

/-- 43_bounce.md R205: ACC <- BUF[0], ROUND <- 0, PHASE <- BOUNCE, nothing else; RESULT reads BUF[0]. -/
def Obligations.BounceInitSeedsAcc : Prop :=
  ∀ s : State, 0 < s.params.bufWordsMax.toNat → ∃ t, exec .bounceInit s = .next t ∧
    t = { s with acc := bufValue s 0, round := 0#11, phase := 0x5#4 } ∧
    regRead t .resultHi ++ regRead t .resultLo = bufValue s 0

/-- 43_bounce.md R206: with N_L >= 1, and the entry at the index (r mod 2^31) mod N_L for the output r = S[0] + S[3]
existing, BOUNCE_STEP completes; it XORs that entry into ACC, advances S, counts the round, goes to TEST exactly when the
count is 1024, and changes nothing else. -/
def Obligations.BounceStepFoldsEntry : Prop :=
  ∀ s : State, 1 ≤ s.nL.toNat →
    (s.gen.w0 + s.gen.w3).toNat % 2 ^ 31 % s.nL.toNat < s.params.bufWordsMax.toNat →
    exec .bounceStep s = .next
      { s with
        gen := (prngNext s.gen).2
        acc := s.acc ^^^ bufValue s ((s.gen.w0 + s.gen.w3).toNat % 2 ^ 31 % s.nL.toNat)
        round := s.round + 1#11
        phase := if s.round + 1#11 = 1024#11 then 0x6#4 else s.phase }

/-- The model's choice (log entry 6), where 00_scope.md R17 defines no remainder: with N_L = 0 BOUNCE_STEP completes, the
word folded into ACC is not fixed, and everything else is as R206 says. -/
def Obligations.BounceStepWithZeroLengthCompletes : Prop :=
  ∀ s : State, s.nL.toNat = 0 → ∃ v, exec .bounceStep s = .next
    { s with
      gen := (prngNext s.gen).2
      acc := s.acc ^^^ v
      round := s.round + 1#11
      phase := if s.round + 1#11 = 1024#11 then 0x6#4 else s.phase
      undefCount := s.undefCount + 1 }

/-- The model's choice (log entry 7), from 20_memory.md R80: an access to an entry that does not exist stops the model. -/
def Obligations.AccessBeyondBufferFaults : Prop :=
  ∀ s : State,
    (s.params.bufWordsMax.toNat ≤ s.fidx.toNat → exec .fillStep s = .fault (.noSuchEntry s.fidx.toNat)) ∧
    (s.params.bufWordsMax.toNat = 0 → exec .bounceInit s = .fault (.noSuchEntry 0)) ∧
    (1 ≤ s.nL.toNat → s.params.bufWordsMax.toNat ≤ (s.gen.w0 + s.gen.w3).toNat % 2 ^ 31 % s.nL.toNat →
      exec .bounceStep s = .fault (.noSuchEntry ((s.gen.w0 + s.gen.w3).toNat % 2 ^ 31 % s.nL.toNat)))

/-- 45_search_fsm.md R262: PHASE <- FOUND if LZC64(ACC) >= DIFF_L, else INCR, nothing else; done_o rises exactly on
success. -/
def Obligations.DiffTestBranches : Prop :=
  ∀ s : State, ∃ t, exec .diffTest s = .next t ∧
    t = { s with phase := if s.diffL.toNat ≤ lzc64 s.acc then 0x8#4 else 0x7#4 } ∧
    (doneO t = true ↔ s.diffL.toNat ≤ lzc64 s.acc) ∧
    (s.diffL.toNat = 0 → t.phase = 0x8#4) ∧
    (s.diffL.toNat = 64 → (t.phase = 0x8#4 ↔ s.acc = 0#64)) ∧
    (65 ≤ s.diffL.toNat → t.phase = 0x7#4)

/-- 45_search_fsm.md R263: NONCE <- NONCE + 1 mod 2^32, PHASE <- SEED, nothing else. -/
def Obligations.NonceIncWraps : Prop :=
  ∀ s : State, ∃ t, exec .nonceInc s = .next t ∧
    t = { s with nonce := s.nonce + 1#32, phase := 0x1#4 } ∧
    t.nonce.toNat = (s.nonce.toNat + 1) % 2 ^ 32

/-- 30_encoding.md R116: reserved phase codes stop the model, and no step writes one to PHASE. -/
def Obligations.ReservedPhaseFaultsAndIsNeverWritten : Prop :=
  (∀ s, exec .reservedPhase9 s = .fault (.reservedPhase 0x9#4)) ∧
  (∀ c s, exec (.reservedPhaseAB c) s = .fault (.reservedPhase c)) ∧
  (∀ c s, exec (.reservedPhaseCF c) s = .fault (.reservedPhase c)) ∧
  (∀ s, 9 ≤ s.phase.toNat → exec (decode (.phase s.phase)) s = .fault (.reservedPhase s.phase)) ∧
  (∀ s t, s.phase.toNat ≤ 8 → step s = .next t → t.phase.toNat ≤ 8)

/-! The units' functions. -/

/-- 40_loader.md R140, R141: each word is eight bytes big-endian; on the DIGEST registers it is two registers, the first
the high half. -/
def Obligations.LoaderPacksBigEndian : Prop :=
  (∀ b : Fin 32 → U8, loadLongHash (List.ofFn b) =
    ⟨b 0 ++ b 1 ++ b 2 ++ b 3 ++ b 4 ++ b 5 ++ b 6 ++ b 7,
     b 8 ++ b 9 ++ b 10 ++ b 11 ++ b 12 ++ b 13 ++ b 14 ++ b 15,
     b 16 ++ b 17 ++ b 18 ++ b 19 ++ b 20 ++ b 21 ++ b 22 ++ b 23,
     b 24 ++ b 25 ++ b 26 ++ b 27 ++ b 28 ++ b 29 ++ b 30 ++ b 31⟩) ∧
  (∀ d : Digest, loadLongHash (digestBytes d) = ⟨d.d0 ++ d.d1, d.d2 ++ d.d3, d.d4 ++ d.d5, d.d6 ++ d.d7⟩)

/-- 41_prng.md R160, R161: the output is the sum of words 0 and 3 before the call, mod 2^64, and the next state is the
nine steps' result in closed form; the rotation moves bit i to bit (i + 45) mod 64. -/
def Obligations.GeneratorClosedForm : Prop :=
  ∀ g : Quad,
    (prngNext g).1.toNat = (g.w0.toNat + g.w3.toNat) % 2 ^ 64 ∧
    (prngNext g).2.w0 = g.w0 ^^^ g.w1 ^^^ g.w3 ∧
    (prngNext g).2.w1 = g.w0 ^^^ g.w1 ^^^ g.w2 ∧
    (prngNext g).2.w2 = g.w0 ^^^ g.w2 ^^^ (g.w1 <<< 17) ∧
    (∀ i, i < 64 → (prngNext g).2.w3.getLsbD ((i + 45) % 64) = (g.w1.getLsbD i ^^ g.w3.getLsbD i))

/-- 41_prng.md R163: the zero state is a fixed point with output 0, so every later output is 0; DERIVE makes it exactly
when every word of LH is SEED; then every buffer entry and ACC are 0, whatever the length; the first seed of a search with
the default parameters. -/
def Obligations.GeneratorZeroStateIsFixed : Prop :=
  prngNext ⟨0#64, 0#64, 0#64, 0#64⟩ = (0#64, ⟨0#64, 0#64, 0#64, 0#64⟩) ∧
  (∀ k, fillOutputs ⟨0#64, 0#64, 0#64, 0#64⟩ k = (List.replicate k 0#64, ⟨0#64, 0#64, 0#64, 0#64⟩)) ∧
  (∀ (lh : Quad) (seed : U64), deriveState lh seed = ⟨0#64, 0#64, 0#64, 0#64⟩ ↔ lh = ⟨seed, seed, seed, seed⟩) ∧
  (∀ (seed : U64) (n : U32), attempt ⟨seed, seed, seed, seed⟩ seed n = (0#64, ⟨0#64, 0#64, 0#64, 0#64⟩)) ∧
  seedChain Config.Params.default 1 = 0x2FD89DDCD351E3DC#64

/-- 43_bounce.md R200, R201: the index is r's low 31 bits modulo n, at most n - 1 and at most 0x7FFFFFFF; bits 31 to 63
of r never affect it. -/
def Obligations.BounceIndexMasksThenReduces : Prop :=
  ∀ (r : U64) (n : U32), 1 ≤ n.toNat →
    (bounceIndex r n).toNat = r.toNat % 2 ^ 31 % n.toNat ∧
    (bounceIndex r n).toNat ≤ min (n.toNat - 1) 0x7FFFFFFF ∧
    (∀ r' : U64, r'.extractLsb' 0 31 = r.extractLsb' 0 31 → bounceIndex r' n = bounceIndex r n)

/-- 43_bounce.md R208: with N_L = 1 an attempt's ACC is S[0] + S[3] of the derived state. -/
def Obligations.OneEntryAttemptIsFirstOutput : Prop :=
  ∀ (lh : Quad) (seed : U64), (attempt lh seed 1#32).1 = (lh.w0 ^^^ seed) + (lh.w3 ^^^ seed)

/-- 44_leading_zero.md R230: LZC64(0) = 64, and for x other than 0 it is 63 minus the index of the highest set bit. -/
def Obligations.LeadingZeroCountIsHighestBit : Prop :=
  lzc64 0#64 = 64 ∧
  ∀ x : U64, x ≠ 0#64 → ∃ i, i < 64 ∧ x.getLsbD i = true ∧ (∀ j, i < j → x.getLsbD j = false) ∧ lzc64 x = 63 - i

/-- 44_leading_zero.md R232: the split realisation, halves of 32 bits with an offset for an all-zero high half, gives the
same count. The count of a half is that of the 64-bit value it is the low half of, less 32. -/
def Obligations.LeadingZeroCountSplitsInHalves : Prop :=
  ∀ x : U64, lzc64 x =
    if x.extractLsb' 32 32 ≠ 0#32 then lzc64 ((x.extractLsb' 32 32).setWidth 64) - 32
    else 32 + (lzc64 ((x.extractLsb' 0 32).setWidth 64) - 32)

/-- 44_leading_zero.md R231, R233: an attempt passes exactly when its leading-zero count is at least the difficulty;
difficulty 0 always passes, 1 to 64 exactly when that many top bits are 0, 65 and
above never; and passing is monotone. -/
def Obligations.PassMeansTopBitsZero : Prop :=
  ∀ (acc : U64) (d : U8),
    (passes acc d = true ↔ d.toNat ≤ lzc64 acc) ∧
    (d.toNat = 0 → passes acc d = true) ∧
    (1 ≤ d.toNat → d.toNat ≤ 64 → (passes acc d = true ↔ ∀ i, 64 - d.toNat ≤ i → i ≤ 63 → acc.getLsbD i = false)) ∧
    (65 ≤ d.toNat → passes acc d = false) ∧
    (∀ d' : U8, passes acc d = true → d'.toNat ≤ d.toNat → passes acc d' = true)

/-! The work buffer. -/

/-- 20_memory.md R82: a read returns the most recent write to the entry, a write changes only its entry; the canonical
form is kept. -/
def Obligations.BufferBehavesAsPlainMemory : Prop :=
  ∀ (s : State) (j : Nat) (v : U64),
    bufValue (storeEntry s j v) j = v ∧
    (∀ k, k ≠ j → bufValue (storeEntry s j v) k = bufValue s k) ∧
    (∀ w, bufValue (storeEntry (storeEntry s j w) j v) j = v) ∧
    (Memory.wf s.buf = true → Memory.wf (storeEntry s j v).buf = true)

/-- 20_memory.md R81: only FILL_STEP and reset change the buffer; FILL_STEP changes entry FIDX alone. -/
def Obligations.OnlyFillStepTouchesBuffer : Prop :=
  ∀ s t : State, step s = .next t → nextEvent s ≠ .reset →
    ∀ j, ¬ (nextEvent s = .seq ∧ s.phase = 0x3#4 ∧ j = s.fidx.toNat) →
      bufValue t j = bufValue s j ∧ written t j = written s j

/-! The host register window. -/

/-- 20_memory.md R86, R92: a supported read answers with the register's value at the moment of the read and changes no
state of the block. The bus field and the event list are the model's (log entries 1, 11). -/
def Obligations.SupportedReadHasNoSideEffect : Prop :=
  ∀ (s : State) (off : U8) (rest : List Event), off.toNat % 4 = 0 →
    s.events = .host (.read (s.params.base + off.toNat) .w32) :: rest →
    step s = .next { s with events := rest, bus := some ⟨false, some (regRead s (regAt off))⟩ }

/-- 10_state.md R43 to R54: what each offset of the window reads. -/
def Obligations.WindowReadsTheMap : Prop :=
  ∀ s : State,
    regRead s (regAt 0x00#8) = 0#32 ∧
    regRead s (regAt 0x04#8) = statusWord s ∧
    (regRead s (regAt 0x08#8)).toNat = s.diff.toNat ∧
    regRead s (regAt 0x0C#8) = s.bufLen ∧
    regRead s (regAt 0x10#8) = s.digest.d0 ∧ regRead s (regAt 0x14#8) = s.digest.d1 ∧
    regRead s (regAt 0x18#8) = s.digest.d2 ∧ regRead s (regAt 0x1C#8) = s.digest.d3 ∧
    regRead s (regAt 0x20#8) = s.digest.d4 ∧ regRead s (regAt 0x24#8) = s.digest.d5 ∧
    regRead s (regAt 0x28#8) = s.digest.d6 ∧ regRead s (regAt 0x2C#8) = s.digest.d7 ∧
    regRead s (regAt 0x30#8) = s.nonce ∧
    regRead s (regAt 0x34#8) = s.params.bufWordsMax ∧
    regRead s (regAt 0x3C#8) ++ regRead s (regAt 0x38#8) = s.acc ∧
    regRead s (regAt 0x44#8) ++ regRead s (regAt 0x40#8) = s.seed ∧
    (∀ off : U8, 0x48 ≤ off.toNat → regRead s (regAt off) = 0#32)

/-- 10_state.md R45, R55: the fields of STATUS, its reserved bits 0, BUSY and FOUND never both 1; done_o equals
STATUS.FOUND. -/
def Obligations.StatusFieldsAndDoneOutput : Prop :=
  ∀ s : State,
    ((statusWord s).getLsbD 0 = true ↔ 1 ≤ s.phase.toNat ∧ s.phase.toNat ≤ 7) ∧
    ((statusWord s).getLsbD 1 = true ↔ s.phase = 0x8#4) ∧
    (statusWord s).extractLsb' 2 2 = 0#2 ∧
    (statusWord s).extractLsb' 4 4 = s.phase ∧
    ((statusWord s).extractLsb' 8 4).toNat =
      (match s.err with | .none => 0 | .badCmd => 1 | .busyStart => 2 | .badBufLen => 3 | .busErr => 4) ∧
    (statusWord s).extractLsb' 12 20 = 0#20 ∧
    ¬ ((statusWord s).getLsbD 0 = true ∧ (statusWord s).getLsbD 1 = true) ∧
    doneO s = (statusWord s).getLsbD 1

/-- 10_state.md R46, R47, R48: in every phase a 32-bit write to DIFFICULTY, BUF_LEN or a DIGEST register stores its value
(DIFFICULTY bits [7:0]), reads back, and changes nothing else of the block. -/
def Obligations.WritableRegistersStore : Prop :=
  ∀ (s : State) (v : U32) (rest : List Event),
    (s.events = .host (.write (s.params.base + 0x08) (.w32 v)) :: rest →
      step s = .next { s with events := rest, bus := some ⟨false, none⟩, diff := v.extractLsb' 0 8 }) ∧
    (s.events = .host (.write (s.params.base + 0x0C) (.w32 v)) :: rest →
      step s = .next { s with events := rest, bus := some ⟨false, none⟩, bufLen := v }) ∧
    (∀ k : Fin 8, s.events = .host (.write (s.params.base + 0x10 + 4 * k.val) (.w32 v)) :: rest →
      ∃ d, step s = .next { s with events := rest, bus := some ⟨false, none⟩, digest := d } ∧
        digestGet d k = v ∧ ∀ k', k' ≠ k → digestGet d k' = digestGet s.digest k')

/-- 10_state.md R49, R54: writes to read-only registers and to reserved offsets change nothing and raise no error. -/
def Obligations.ReadOnlyWritesIgnored : Prop :=
  ∀ (s : State) (off : U8) (v : U32) (rest : List Event), off.toNat % 4 = 0 →
    off = 0x04#8 ∨ 0x30 ≤ off.toNat →
    s.events = .host (.write (s.params.base + off.toNat) (.w32 v)) :: rest →
    step s = .next { s with events := rest, bus := some ⟨false, none⟩ }

/-- 20_memory.md R87, 60_exceptions.md R294: an access that is not aligned or not 32 bits wide is not performed, not even
as a command: the bus answers with an error, a read with data 0, and BUS_ERR is recorded if no error is. -/
def Obligations.UnsupportedAccessIsBusError : Prop :=
  ∀ (s : State) (off : U8) (rest : List Event),
    (∀ w : Width, off.toNat % 4 ≠ 0 ∨ w ≠ .w32 →
      s.events = .host (.read (s.params.base + off.toNat) w) :: rest →
      step s = .next { s with events := rest, bus := some ⟨true, some 0#32⟩,
                              err := if s.err = .none then .busErr else s.err }) ∧
    (∀ d : WriteData, off.toNat % 4 ≠ 0 ∨ (∀ v, d ≠ .w32 v) →
      s.events = .host (.write (s.params.base + off.toNat) d) :: rest →
      step s = .next { s with events := rest, bus := some ⟨true, none⟩,
                              err := if s.err = .none then .busErr else s.err })

/-- The model's choice (log entry 12), from 20_memory.md R85 and R93: an access outside the window does not select the
block. -/
def Obligations.AccessOutsideWindowChangesNothing : Prop :=
  ∀ (s : State) (addr : Nat) (rest : List Event), addr < s.params.base ∨ s.params.base + 256 ≤ addr →
    (∀ w, s.events = .host (.read addr w) :: rest → step s = .next { s with events := rest }) ∧
    (∀ d, s.events = .host (.write addr d) :: rest → step s = .next { s with events := rest })

/-! Errors. -/

/-- 60_exceptions.md R296, R298: once an error is recorded, ERR changes only by CLRERR or reset. -/
def Obligations.FirstErrorIsSticky : Prop :=
  ∀ s t : State, step s = .next t → s.err ≠ .none →
    t.err = s.err ∨ nextEvent s = .reset ∨ ∃ g, commandOf s.params (nextEvent s) = some (.clrerr g)

/-- 60_exceptions.md R297: a step that records an error changes nothing of what the search runs on, nor any host
register. -/
def Obligations.ErrorsNeverDisturbTheSearch : Prop :=
  ∀ s t : State, step s = .next t → t.err ≠ s.err → t.err ≠ .none →
    datapath t = datapath s ∧ t.diff = s.diff ∧ t.bufLen = s.bufLen ∧ t.digest = s.digest

/-- 60_exceptions.md R295 ("Micro-steps raise no error"), 10_state.md R31, R39, R40: a turn of the sequencer leaves the
latched inputs, ERR, the host registers and the bus as they are. -/
def Obligations.MicroStepsKeepInputsAndErrors : Prop :=
  ∀ s t : State, nextEvent s = .seq → step s = .next t →
    t.params = s.params ∧ t.lh = s.lh ∧ t.diffL = s.diffL ∧ t.nL = s.nL ∧ t.err = s.err ∧ t.diff = s.diff ∧
    t.bufLen = s.bufLen ∧ t.digest = s.digest ∧ t.bus = s.bus ∧ t.bufEpoch = s.bufEpoch ∧ t.events = s.events.tail

/-! Reset. -/

/-- 70_reset_and_hazards.md R320: the reset event, in any state, sets every element to its reset value at once; what the
window then reads. BUF is unspecified after it, so nothing is said of BUF. -/
def Obligations.ResetEventSetsEverything : Prop :=
  ∀ (s : State) (rest : List Event), s.events = .reset :: rest → ∃ t, step s = .next t ∧
    t.phase = 0x0#4 ∧ t.err = .none ∧ t.lh = ⟨0#64, 0#64, 0#64, 0#64⟩ ∧ t.gen = ⟨0#64, 0#64, 0#64, 0#64⟩ ∧
    t.seed = s.params.seedInit ∧ t.nonce = 0#32 ∧ t.acc = 0#64 ∧ t.fidx = 0#32 ∧ t.round = 0#11 ∧
    t.diffL = 0#8 ∧ t.nL = 0#32 ∧ t.diff = 12#8 ∧ t.bufLen.toNat = min 1048576 s.params.bufWordsMax.toNat ∧
    (∀ k, digestGet t.digest k = 0#32) ∧ doneO t = false ∧
    statusWord t = 0#32 ∧ regRead t .nonce = 0#32 ∧ regRead t .resultHi ++ regRead t .resultLo = 0#64 ∧
    regRead t .seedHi ++ regRead t .seedLo = s.params.seedInit ∧ regRead t .bufMax = s.params.bufWordsMax ∧
    t.params = s.params ∧ t.events = rest

/-- 70_reset_and_hazards.md R320, 10_state.md R43: what the window reads in State.reset, and the default parameters of
00_scope.md R11 and R13. -/
def Obligations.ResetStateReads : Prop :=
  statusWord State.reset = 0#32 ∧
  regRead State.reset .difficulty = 0x0000000C#32 ∧
  regRead State.reset .bufLen = 0x00100000#32 ∧
  (∀ k, regRead State.reset (.digest k) = 0#32) ∧
  regRead State.reset .nonce = 0#32 ∧
  regRead State.reset .bufMax = 0x00100000#32 ∧
  regRead State.reset .resultLo = 0#32 ∧ regRead State.reset .resultHi = 0#32 ∧
  regRead State.reset .seedLo = 0x5FAC9DEC#32 ∧ regRead State.reset .seedHi = 0x001ED8B5#32 ∧
  doneO State.reset = false ∧
  State.reset.params.seedInit.toNat = 8682522807148012 ∧
  State.reset.params.seedMult.toNat = 1181783497276652981

/-! Invariants. -/

/-- Every reset state, for parameters in their ranges, satisfies the invariant (92_eei_decisions.md, parameter table). -/
def Obligations.ResetSatisfiesInvariant : Prop :=
  (∀ p : Config.Params, p.wf = true → Inv (State.resetFor p)) ∧ Inv State.reset

/-- Every step, from every state that satisfies the invariant, keeps it: the buffer keeps its canonical form and bounds,
PHASE holds no reserved code (30_encoding.md R116), a search has a legal length (10_state.md R39), every entry below N_L
is written before BINIT (20_memory.md R83), TEST comes only after 1024 rounds (43_bounce.md R206), FOUND only with a
passing result (10_state.md R52). -/
def Obligations.StepKeepsInvariant : Prop :=
  ∀ s t : State, Inv s → step s = .next t → Inv t

/-- From every state that satisfies the invariant a step answers a next state, no fault and no refusal (45_search_fsm.md
R267), and every buffer entry a micro-step reads has been written since reset, so that no free value is ever read
(20_memory.md R83). -/
def Obligations.InvariantStatesNeverStop : Prop :=
  ∀ s : State, Inv s →
    (∃ t, step s = .next t) ∧
    (s.phase = 0x4#4 → written s 0 = true) ∧
    (s.phase = 0x5#4 → s.nL ≠ 0#32 ∧ written s (bounceIndex (prngNext s.gen).1 s.nL).toNat = true)

/-- 10_state.md R56: for a SEED_INIT that is 4 mod 8 and an odd SEED_MULT, as the defaults are, SEED stays 4 mod 8
through every step. -/
def Obligations.SeedStaysFourModEight : Prop :=
  ∀ s t : State, step s = .next t →
    s.params.seedInit.toNat % 8 = 4 → s.params.seedMult.toNat % 2 = 1 → s.seed.toNat % 8 = 4 →
    t.seed.toNat % 8 = 4 ∧ t.seed ≠ 0#64 ∧ t.params = s.params

/-- 45_search_fsm.md R250: the successor of each phase at a turn of the sequencer, with its condition. -/
def Obligations.PhaseOrder : Prop :=
  ∀ s t : State, Inv s → nextEvent s = .seq → step s = .next t →
    (s.phase = 0x0#4 → t.phase = 0x0#4) ∧
    (s.phase = 0x1#4 → t.phase = 0x2#4) ∧
    (s.phase = 0x2#4 → t.phase = 0x3#4) ∧
    (s.phase = 0x3#4 → (t.fidx.toNat < t.nL.toNat → t.phase = 0x3#4) ∧ (t.fidx = t.nL → t.phase = 0x4#4) ∧
      t.fidx.toNat ≤ t.nL.toNat) ∧
    (s.phase = 0x4#4 → t.phase = 0x5#4) ∧
    (s.phase = 0x5#4 → (t.round.toNat < 1024 → t.phase = 0x5#4) ∧ (t.round.toNat = 1024 → t.phase = 0x6#4) ∧
      t.round.toNat ≤ 1024) ∧
    (s.phase = 0x6#4 → (t.diffL.toNat ≤ lzc64 t.acc → t.phase = 0x8#4) ∧ (lzc64 t.acc < t.diffL.toNat → t.phase = 0x7#4)) ∧
    (s.phase = 0x7#4 → t.phase = 0x1#4) ∧
    (s.phase = 0x8#4 → t.phase = 0x8#4)

/-- 45_search_fsm.md R250: outside the sequencer's turns only an accepted START, an ABORT and a reset move PHASE, to SEED
and to IDLE. -/
def Obligations.OnlyCommandsAndResetMovePhase : Prop :=
  ∀ s t : State, step s = .next t → nextEvent s ≠ .seq → t.phase ≠ s.phase →
    (nextEvent s = .reset ∧ t.phase = 0x0#4) ∨
    (∃ g, commandOf s.params (nextEvent s) = some (.abort g) ∧ t.phase = 0x0#4) ∨
    (∃ g, commandOf s.params (nextEvent s) = some (.start g) ∧ t.phase = 0x1#4 ∧
      1 ≤ s.bufLen.toNat ∧ s.bufLen.toNat ≤ s.params.bufWordsMax.toNat)

/-- 10_state.md R39, 40_loader.md R142, 70_reset_and_hazards.md R341: LH, DIFF_L and N_L change only by reset or by a
START outside the busy phases, so no host write to DIGEST, DIFFICULTY or BUF_LEN reaches a running search. -/
def Obligations.LatchedInputsChangeOnlyAtStart : Prop :=
  ∀ s t : State, step s = .next t → ¬ (t.lh = s.lh ∧ t.diffL = s.diffL ∧ t.nL = s.nL) →
    nextEvent s = .reset ∨
    (¬ (1 ≤ s.phase.toNat ∧ s.phase.toNat ≤ 7) ∧ ∃ g, commandOf s.params (nextEvent s) = some (.start g))

/-! Whole searches. -/

/-- 45_search_fsm.md R265: host accesses that are no command, however they fall between the micro-steps, do not change
what the search does: the datapath at the end is that of the same number of micro-steps alone. -/
def Obligations.QuietHostDoesNotAffectSearch : Prop :=
  ∀ (s t : State) (evs : List Event), (∀ e ∈ evs, quiet s.params e = true) →
    runSteps evs.length { s with events := evs } = .next t →
    ∃ u, runSteps (evs.count .seq) { s with events := [] } = .next u ∧ datapath u = datapath t

/-- 20_memory.md R97: after an accepted START, any number of turns of the sequencer and then a read of STATUS, the host
sees BUSY = 1 or FOUND = 1, never IDLE. -/
def Obligations.StatusAfterStartIsNeverIdle : Prop :=
  ∀ (s : State) (k : Nat) (g : BitVec 28), Inv s →
    isBusy s.phase = false → badLength s = false →
    s.events = .host (.write s.params.base (.w32 (commandWord g 0x1#4))) ::
      (List.replicate k Event.seq ++ [.host (.read (s.params.base + 0x04) .w32)]) →
    ∃ t v, runSteps (k + 2) s = .next t ∧
      t.bus = some ⟨false, some v⟩ ∧ (v.getLsbD 0 = true ∨ v.getLsbD 1 = true)

/-- 42_buffer_fill.md R180, R182, 45_search_fsm.md R264: from the start of FILL, N_L micro-steps write the first N_L
generator outputs front to back, thread the state through, and reach BINIT. -/
def Obligations.FillRunRefinesFill : Prop :=
  ∀ s : State, Inv s → s.events = [] → s.phase = 0x3#4 → s.fidx = 0#32 → ∃ t,
    runSteps s.nL.toNat s = .next t ∧ t.phase = 0x4#4 ∧ t.fidx = s.nL ∧
    t.gen = (fillOutputs s.gen s.nL.toNat).2 ∧
    (∀ j, j < s.nL.toNat → (fillOutputs s.gen s.nL.toNat).1[j]? = some (bufValue t j)) ∧
    (∀ j, s.nL.toNat ≤ j → bufValue t j = bufValue s j)

/-- 43_bounce.md R207: from BINIT, 1025 micro-steps are Bounce(S, N_L) on the buffer as it stands, and reach TEST. -/
def Obligations.BounceRunRefinesBounce : Prop :=
  ∀ s : State, Inv s → s.events = [] → s.phase = 0x4#4 → ∃ t,
    runSteps 1025 s = .next t ∧ t.phase = 0x6#4 ∧ t.round = 1024#11 ∧
    (t.acc, t.gen) = bounce (bufValue s) s.gen s.nL ∧ t.buf = s.buf

/-- 45_search_fsm.md R264: from SEED, N_L + 1027 micro-steps compute Attempt(LH, SEED * SEED_MULT, N_L) into ACC and
reach TEST with the nonce unchanged. -/
def Obligations.AttemptRunRefinesAttempt : Prop :=
  ∀ s : State, Inv s → s.events = [] → s.phase = 0x1#4 → ∃ t,
    runSteps (s.nL.toNat + 1027) s = .next t ∧ t.phase = 0x6#4 ∧
    (t.acc, t.gen) = attempt s.lh (s.seed * s.params.seedMult) s.nL ∧
    t.seed = s.seed * s.params.seedMult ∧ t.nonce = s.nonce ∧ t.lh = s.lh ∧ t.diffL = s.diffL ∧ t.nL = s.nL

/-- 45_search_fsm.md R266, first case: with DIFF_L = 0 the first attempt succeeds: FOUND with the nonce unchanged after
exactly N_L + 1028 micro-steps, and not before. -/
def Obligations.ZeroDifficultyFindsAtOnce : Prop :=
  ∀ s : State, Inv s → s.events = [] → s.phase = 0x1#4 → s.diffL = 0#8 →
    (∃ t, runSteps (s.nL.toNat + 1028) s = .next t ∧ t.phase = 0x8#4 ∧ t.nonce = s.nonce) ∧
    ∀ k, k < s.nL.toNat + 1028 → ∃ u, runSteps k s = .next u ∧ u.phase ≠ 0x8#4

/-- 45_search_fsm.md R266, second case, 70_reset_and_hazards.md R332: with DIFF_L >= 65 a running search left to itself
never ends: after any number of micro-steps it is still busy. -/
def Obligations.UnsatisfiableSearchNeverEnds : Prop :=
  ∀ s : State, Inv s → s.events = [] → isBusy s.phase = true → 65 ≤ s.diffL.toNat →
    ∀ k, ∃ t, runSteps k s = .next t ∧ isBusy t.phase = true

/-- 45_search_fsm.md R264, 10_state.md R56: from the state an accepted START leaves, if the first m attempts fail and
attempt number m + 1 passes, then after (m + 1)(N_L + 1028) + m micro-steps the block is in FOUND with NONCE = m mod
2^32, ACC the result of that attempt and SEED = SEED_INIT * SEED_MULT^(m + 1). -/
def Obligations.SearchRunRefinesSearch : Prop :=
  ∀ (s : State) (m : Nat), Inv s → s.events = [] → s.phase = 0x1#4 → s.seed = s.params.seedInit → s.nonce = 0#32 →
    (∀ i, i < m → passes (searchAcc s.params s.lh s.nL i) s.diffL = false) →
    passes (searchAcc s.params s.lh s.nL m) s.diffL = true →
    ∃ t, runSteps ((m + 1) * (s.nL.toNat + 1028) + m) s = .next t ∧ t.phase = 0x8#4 ∧
      t.nonce = BitVec.ofNat 32 m ∧ t.acc = searchAcc s.params s.lh s.nL m ∧
      t.seed = seedChain s.params (m + 1)
end

