-- ==== Sys2Proof/Laws/State.lean ====
section
/-! SUPPORT. What each named update of the state does to each field: one lemma per field per update, true by rfl and
tagged simp, so that no proof unfolds a record update. -/

namespace Sys2Proof.Machine

/-! `raise`. -/

@[simp] theorem raise_params (e : ErrCode) (s : State) : (raise e s).params = s.params := rfl
@[simp] theorem raise_lh (e : ErrCode) (s : State) : (raise e s).lh = s.lh := rfl
@[simp] theorem raise_gen (e : ErrCode) (s : State) : (raise e s).gen = s.gen := rfl
@[simp] theorem raise_seed (e : ErrCode) (s : State) : (raise e s).seed = s.seed := rfl
@[simp] theorem raise_nonce (e : ErrCode) (s : State) : (raise e s).nonce = s.nonce := rfl
@[simp] theorem raise_acc (e : ErrCode) (s : State) : (raise e s).acc = s.acc := rfl
@[simp] theorem raise_phase (e : ErrCode) (s : State) : (raise e s).phase = s.phase := rfl
@[simp] theorem raise_fidx (e : ErrCode) (s : State) : (raise e s).fidx = s.fidx := rfl
@[simp] theorem raise_round (e : ErrCode) (s : State) : (raise e s).round = s.round := rfl
@[simp] theorem raise_diffL (e : ErrCode) (s : State) : (raise e s).diffL = s.diffL := rfl
@[simp] theorem raise_nL (e : ErrCode) (s : State) : (raise e s).nL = s.nL := rfl
@[simp] theorem raise_err (e : ErrCode) (s : State) : (raise e s).err = firstError s.err e := rfl
@[simp] theorem raise_diff (e : ErrCode) (s : State) : (raise e s).diff = s.diff := rfl
@[simp] theorem raise_bufLen (e : ErrCode) (s : State) : (raise e s).bufLen = s.bufLen := rfl
@[simp] theorem raise_digest (e : ErrCode) (s : State) : (raise e s).digest = s.digest := rfl
@[simp] theorem raise_buf (e : ErrCode) (s : State) : (raise e s).buf = s.buf := rfl
@[simp] theorem raise_bus (e : ErrCode) (s : State) : (raise e s).bus = s.bus := rfl
@[simp] theorem raise_events (e : ErrCode) (s : State) : (raise e s).events = s.events := rfl
@[simp] theorem raise_bufEpoch (e : ErrCode) (s : State) : (raise e s).bufEpoch = s.bufEpoch := rfl
@[simp] theorem raise_undefCount (e : ErrCode) (s : State) : (raise e s).undefCount = s.undefCount := rfl

/-! `clearErr`. -/

@[simp] theorem clearErr_params (s : State) : (clearErr s).params = s.params := rfl
@[simp] theorem clearErr_lh (s : State) : (clearErr s).lh = s.lh := rfl
@[simp] theorem clearErr_gen (s : State) : (clearErr s).gen = s.gen := rfl
@[simp] theorem clearErr_seed (s : State) : (clearErr s).seed = s.seed := rfl
@[simp] theorem clearErr_nonce (s : State) : (clearErr s).nonce = s.nonce := rfl
@[simp] theorem clearErr_acc (s : State) : (clearErr s).acc = s.acc := rfl
@[simp] theorem clearErr_phase (s : State) : (clearErr s).phase = s.phase := rfl
@[simp] theorem clearErr_fidx (s : State) : (clearErr s).fidx = s.fidx := rfl
@[simp] theorem clearErr_round (s : State) : (clearErr s).round = s.round := rfl
@[simp] theorem clearErr_diffL (s : State) : (clearErr s).diffL = s.diffL := rfl
@[simp] theorem clearErr_nL (s : State) : (clearErr s).nL = s.nL := rfl
@[simp] theorem clearErr_err (s : State) : (clearErr s).err = ErrCode.none := rfl
@[simp] theorem clearErr_diff (s : State) : (clearErr s).diff = s.diff := rfl
@[simp] theorem clearErr_bufLen (s : State) : (clearErr s).bufLen = s.bufLen := rfl
@[simp] theorem clearErr_digest (s : State) : (clearErr s).digest = s.digest := rfl
@[simp] theorem clearErr_buf (s : State) : (clearErr s).buf = s.buf := rfl
@[simp] theorem clearErr_bus (s : State) : (clearErr s).bus = s.bus := rfl
@[simp] theorem clearErr_events (s : State) : (clearErr s).events = s.events := rfl
@[simp] theorem clearErr_bufEpoch (s : State) : (clearErr s).bufEpoch = s.bufEpoch := rfl
@[simp] theorem clearErr_undefCount (s : State) : (clearErr s).undefCount = s.undefCount := rfl

/-! `respond`. -/

@[simp] theorem respond_params (r : BusResponse) (s : State) : (respond r s).params = s.params := rfl
@[simp] theorem respond_lh (r : BusResponse) (s : State) : (respond r s).lh = s.lh := rfl
@[simp] theorem respond_gen (r : BusResponse) (s : State) : (respond r s).gen = s.gen := rfl
@[simp] theorem respond_seed (r : BusResponse) (s : State) : (respond r s).seed = s.seed := rfl
@[simp] theorem respond_nonce (r : BusResponse) (s : State) : (respond r s).nonce = s.nonce := rfl
@[simp] theorem respond_acc (r : BusResponse) (s : State) : (respond r s).acc = s.acc := rfl
@[simp] theorem respond_phase (r : BusResponse) (s : State) : (respond r s).phase = s.phase := rfl
@[simp] theorem respond_fidx (r : BusResponse) (s : State) : (respond r s).fidx = s.fidx := rfl
@[simp] theorem respond_round (r : BusResponse) (s : State) : (respond r s).round = s.round := rfl
@[simp] theorem respond_diffL (r : BusResponse) (s : State) : (respond r s).diffL = s.diffL := rfl
@[simp] theorem respond_nL (r : BusResponse) (s : State) : (respond r s).nL = s.nL := rfl
@[simp] theorem respond_err (r : BusResponse) (s : State) : (respond r s).err = s.err := rfl
@[simp] theorem respond_diff (r : BusResponse) (s : State) : (respond r s).diff = s.diff := rfl
@[simp] theorem respond_bufLen (r : BusResponse) (s : State) : (respond r s).bufLen = s.bufLen := rfl
@[simp] theorem respond_digest (r : BusResponse) (s : State) : (respond r s).digest = s.digest := rfl
@[simp] theorem respond_buf (r : BusResponse) (s : State) : (respond r s).buf = s.buf := rfl
@[simp] theorem respond_bus (r : BusResponse) (s : State) : (respond r s).bus = some r := rfl
@[simp] theorem respond_events (r : BusResponse) (s : State) : (respond r s).events = s.events := rfl
@[simp] theorem respond_bufEpoch (r : BusResponse) (s : State) : (respond r s).bufEpoch = s.bufEpoch := rfl
@[simp] theorem respond_undefCount (r : BusResponse) (s : State) : (respond r s).undefCount = s.undefCount := rfl

/-! `storeEntry`. -/

@[simp] theorem storeEntry_params (s : State) (j : Nat) (v : U64) : (storeEntry s j v).params = s.params := rfl
@[simp] theorem storeEntry_lh (s : State) (j : Nat) (v : U64) : (storeEntry s j v).lh = s.lh := rfl
@[simp] theorem storeEntry_gen (s : State) (j : Nat) (v : U64) : (storeEntry s j v).gen = s.gen := rfl
@[simp] theorem storeEntry_seed (s : State) (j : Nat) (v : U64) : (storeEntry s j v).seed = s.seed := rfl
@[simp] theorem storeEntry_nonce (s : State) (j : Nat) (v : U64) : (storeEntry s j v).nonce = s.nonce := rfl
@[simp] theorem storeEntry_acc (s : State) (j : Nat) (v : U64) : (storeEntry s j v).acc = s.acc := rfl
@[simp] theorem storeEntry_phase (s : State) (j : Nat) (v : U64) : (storeEntry s j v).phase = s.phase := rfl
@[simp] theorem storeEntry_fidx (s : State) (j : Nat) (v : U64) : (storeEntry s j v).fidx = s.fidx := rfl
@[simp] theorem storeEntry_round (s : State) (j : Nat) (v : U64) : (storeEntry s j v).round = s.round := rfl
@[simp] theorem storeEntry_diffL (s : State) (j : Nat) (v : U64) : (storeEntry s j v).diffL = s.diffL := rfl
@[simp] theorem storeEntry_nL (s : State) (j : Nat) (v : U64) : (storeEntry s j v).nL = s.nL := rfl
@[simp] theorem storeEntry_err (s : State) (j : Nat) (v : U64) : (storeEntry s j v).err = s.err := rfl
@[simp] theorem storeEntry_diff (s : State) (j : Nat) (v : U64) : (storeEntry s j v).diff = s.diff := rfl
@[simp] theorem storeEntry_bufLen (s : State) (j : Nat) (v : U64) : (storeEntry s j v).bufLen = s.bufLen := rfl
@[simp] theorem storeEntry_digest (s : State) (j : Nat) (v : U64) : (storeEntry s j v).digest = s.digest := rfl
@[simp] theorem storeEntry_buf (s : State) (j : Nat) (v : U64) : (storeEntry s j v).buf = bufStore s.buf j v := rfl
@[simp] theorem storeEntry_bus (s : State) (j : Nat) (v : U64) : (storeEntry s j v).bus = s.bus := rfl
@[simp] theorem storeEntry_events (s : State) (j : Nat) (v : U64) : (storeEntry s j v).events = s.events := rfl
@[simp] theorem storeEntry_bufEpoch (s : State) (j : Nat) (v : U64) : (storeEntry s j v).bufEpoch = s.bufEpoch := rfl
@[simp] theorem storeEntry_undefCount (s : State) (j : Nat) (v : U64) : (storeEntry s j v).undefCount = s.undefCount := rfl

/-! `resetEvent`. -/

@[simp] theorem resetEvent_params (s : State) : (resetEvent s).params = s.params := rfl
@[simp] theorem resetEvent_lh (s : State) : (resetEvent s).lh = Quad.zero := rfl
@[simp] theorem resetEvent_gen (s : State) : (resetEvent s).gen = Quad.zero := rfl
@[simp] theorem resetEvent_seed (s : State) : (resetEvent s).seed = s.params.seedInit := rfl
@[simp] theorem resetEvent_nonce (s : State) : (resetEvent s).nonce = 0#32 := rfl
@[simp] theorem resetEvent_acc (s : State) : (resetEvent s).acc = 0#64 := rfl
@[simp] theorem resetEvent_phase (s : State) : (resetEvent s).phase = 0x0#4 := rfl
@[simp] theorem resetEvent_fidx (s : State) : (resetEvent s).fidx = 0#32 := rfl
@[simp] theorem resetEvent_round (s : State) : (resetEvent s).round = 0#11 := rfl
@[simp] theorem resetEvent_diffL (s : State) : (resetEvent s).diffL = 0#8 := rfl
@[simp] theorem resetEvent_nL (s : State) : (resetEvent s).nL = 0#32 := rfl
@[simp] theorem resetEvent_err (s : State) : (resetEvent s).err = ErrCode.none := rfl
@[simp] theorem resetEvent_diff (s : State) : (resetEvent s).diff = 12#8 := rfl
@[simp] theorem resetEvent_bufLen (s : State) : (resetEvent s).bufLen = resetLength s.params.bufWordsMax := rfl
@[simp] theorem resetEvent_digest (s : State) : (resetEvent s).digest = Digest.zero := rfl
@[simp] theorem resetEvent_buf (s : State) : (resetEvent s).buf = [] := rfl
@[simp] theorem resetEvent_bus (s : State) : (resetEvent s).bus = Option.none := rfl
@[simp] theorem resetEvent_events (s : State) : (resetEvent s).events = s.events := rfl
@[simp] theorem resetEvent_bufEpoch (s : State) : (resetEvent s).bufEpoch = s.bufEpoch + 1 := rfl
@[simp] theorem resetEvent_undefCount (s : State) : (resetEvent s).undefCount = s.undefCount := rfl

/-! `acceptStart`. -/

@[simp] theorem acceptStart_params (s : State) : (acceptStart s).params = s.params := rfl
@[simp] theorem acceptStart_lh (s : State) : (acceptStart s).lh = loadLongHash (digestBytes s.digest) := rfl
@[simp] theorem acceptStart_gen (s : State) : (acceptStart s).gen = s.gen := rfl
@[simp] theorem acceptStart_seed (s : State) : (acceptStart s).seed = s.params.seedInit := rfl
@[simp] theorem acceptStart_nonce (s : State) : (acceptStart s).nonce = 0#32 := rfl
@[simp] theorem acceptStart_acc (s : State) : (acceptStart s).acc = s.acc := rfl
@[simp] theorem acceptStart_phase (s : State) : (acceptStart s).phase = phSeed := rfl
@[simp] theorem acceptStart_fidx (s : State) : (acceptStart s).fidx = s.fidx := rfl
@[simp] theorem acceptStart_round (s : State) : (acceptStart s).round = s.round := rfl
@[simp] theorem acceptStart_diffL (s : State) : (acceptStart s).diffL = s.diff := rfl
@[simp] theorem acceptStart_nL (s : State) : (acceptStart s).nL = s.bufLen := rfl
@[simp] theorem acceptStart_err (s : State) : (acceptStart s).err = s.err := rfl
@[simp] theorem acceptStart_diff (s : State) : (acceptStart s).diff = s.diff := rfl
@[simp] theorem acceptStart_bufLen (s : State) : (acceptStart s).bufLen = s.bufLen := rfl
@[simp] theorem acceptStart_digest (s : State) : (acceptStart s).digest = s.digest := rfl
@[simp] theorem acceptStart_buf (s : State) : (acceptStart s).buf = s.buf := rfl
@[simp] theorem acceptStart_bus (s : State) : (acceptStart s).bus = s.bus := rfl
@[simp] theorem acceptStart_events (s : State) : (acceptStart s).events = s.events := rfl
@[simp] theorem acceptStart_bufEpoch (s : State) : (acceptStart s).bufEpoch = s.bufEpoch := rfl
@[simp] theorem acceptStart_undefCount (s : State) : (acceptStart s).undefCount = s.undefCount := rfl

/-! `fillAdvance`. -/

@[simp] theorem fillAdvance_params (g : Quad) (s : State) : (fillAdvance g s).params = s.params := rfl
@[simp] theorem fillAdvance_lh (g : Quad) (s : State) : (fillAdvance g s).lh = s.lh := rfl
@[simp] theorem fillAdvance_gen (g : Quad) (s : State) : (fillAdvance g s).gen = g := rfl
@[simp] theorem fillAdvance_seed (g : Quad) (s : State) : (fillAdvance g s).seed = s.seed := rfl
@[simp] theorem fillAdvance_nonce (g : Quad) (s : State) : (fillAdvance g s).nonce = s.nonce := rfl
@[simp] theorem fillAdvance_acc (g : Quad) (s : State) : (fillAdvance g s).acc = s.acc := rfl
@[simp] theorem fillAdvance_phase (g : Quad) (s : State) : (fillAdvance g s).phase = phaseAfterFill (s.fidx + 1#32) s.nL s.phase := rfl
@[simp] theorem fillAdvance_fidx (g : Quad) (s : State) : (fillAdvance g s).fidx = s.fidx + 1#32 := rfl
@[simp] theorem fillAdvance_round (g : Quad) (s : State) : (fillAdvance g s).round = s.round := rfl
@[simp] theorem fillAdvance_diffL (g : Quad) (s : State) : (fillAdvance g s).diffL = s.diffL := rfl
@[simp] theorem fillAdvance_nL (g : Quad) (s : State) : (fillAdvance g s).nL = s.nL := rfl
@[simp] theorem fillAdvance_err (g : Quad) (s : State) : (fillAdvance g s).err = s.err := rfl
@[simp] theorem fillAdvance_diff (g : Quad) (s : State) : (fillAdvance g s).diff = s.diff := rfl
@[simp] theorem fillAdvance_bufLen (g : Quad) (s : State) : (fillAdvance g s).bufLen = s.bufLen := rfl
@[simp] theorem fillAdvance_digest (g : Quad) (s : State) : (fillAdvance g s).digest = s.digest := rfl
@[simp] theorem fillAdvance_buf (g : Quad) (s : State) : (fillAdvance g s).buf = s.buf := rfl
@[simp] theorem fillAdvance_bus (g : Quad) (s : State) : (fillAdvance g s).bus = s.bus := rfl
@[simp] theorem fillAdvance_events (g : Quad) (s : State) : (fillAdvance g s).events = s.events := rfl
@[simp] theorem fillAdvance_bufEpoch (g : Quad) (s : State) : (fillAdvance g s).bufEpoch = s.bufEpoch := rfl
@[simp] theorem fillAdvance_undefCount (g : Quad) (s : State) : (fillAdvance g s).undefCount = s.undefCount := rfl

/-! `bounceFold`. -/

@[simp] theorem bounceFold_params (g : Quad) (v : U64) (s : State) : (bounceFold g v s).params = s.params := rfl
@[simp] theorem bounceFold_lh (g : Quad) (v : U64) (s : State) : (bounceFold g v s).lh = s.lh := rfl
@[simp] theorem bounceFold_gen (g : Quad) (v : U64) (s : State) : (bounceFold g v s).gen = g := rfl
@[simp] theorem bounceFold_seed (g : Quad) (v : U64) (s : State) : (bounceFold g v s).seed = s.seed := rfl
@[simp] theorem bounceFold_nonce (g : Quad) (v : U64) (s : State) : (bounceFold g v s).nonce = s.nonce := rfl
@[simp] theorem bounceFold_acc (g : Quad) (v : U64) (s : State) : (bounceFold g v s).acc = s.acc ^^^ v := rfl
@[simp] theorem bounceFold_phase (g : Quad) (v : U64) (s : State) : (bounceFold g v s).phase = phaseAfterRound (s.round + 1#11) s.phase := rfl
@[simp] theorem bounceFold_fidx (g : Quad) (v : U64) (s : State) : (bounceFold g v s).fidx = s.fidx := rfl
@[simp] theorem bounceFold_round (g : Quad) (v : U64) (s : State) : (bounceFold g v s).round = s.round + 1#11 := rfl
@[simp] theorem bounceFold_diffL (g : Quad) (v : U64) (s : State) : (bounceFold g v s).diffL = s.diffL := rfl
@[simp] theorem bounceFold_nL (g : Quad) (v : U64) (s : State) : (bounceFold g v s).nL = s.nL := rfl
@[simp] theorem bounceFold_err (g : Quad) (v : U64) (s : State) : (bounceFold g v s).err = s.err := rfl
@[simp] theorem bounceFold_diff (g : Quad) (v : U64) (s : State) : (bounceFold g v s).diff = s.diff := rfl
@[simp] theorem bounceFold_bufLen (g : Quad) (v : U64) (s : State) : (bounceFold g v s).bufLen = s.bufLen := rfl
@[simp] theorem bounceFold_digest (g : Quad) (v : U64) (s : State) : (bounceFold g v s).digest = s.digest := rfl
@[simp] theorem bounceFold_buf (g : Quad) (v : U64) (s : State) : (bounceFold g v s).buf = s.buf := rfl
@[simp] theorem bounceFold_bus (g : Quad) (v : U64) (s : State) : (bounceFold g v s).bus = s.bus := rfl
@[simp] theorem bounceFold_events (g : Quad) (v : U64) (s : State) : (bounceFold g v s).events = s.events := rfl
@[simp] theorem bounceFold_bufEpoch (g : Quad) (v : U64) (s : State) : (bounceFold g v s).bufEpoch = s.bufEpoch := rfl
@[simp] theorem bounceFold_undefCount (g : Quad) (v : U64) (s : State) : (bounceFold g v s).undefCount = s.undefCount := rfl

/-! `takeEvent`. -/

@[simp] theorem takeEvent_params (s : State) : (takeEvent s).params = s.params := rfl
@[simp] theorem takeEvent_lh (s : State) : (takeEvent s).lh = s.lh := rfl
@[simp] theorem takeEvent_gen (s : State) : (takeEvent s).gen = s.gen := rfl
@[simp] theorem takeEvent_seed (s : State) : (takeEvent s).seed = s.seed := rfl
@[simp] theorem takeEvent_nonce (s : State) : (takeEvent s).nonce = s.nonce := rfl
@[simp] theorem takeEvent_acc (s : State) : (takeEvent s).acc = s.acc := rfl
@[simp] theorem takeEvent_phase (s : State) : (takeEvent s).phase = s.phase := rfl
@[simp] theorem takeEvent_fidx (s : State) : (takeEvent s).fidx = s.fidx := rfl
@[simp] theorem takeEvent_round (s : State) : (takeEvent s).round = s.round := rfl
@[simp] theorem takeEvent_diffL (s : State) : (takeEvent s).diffL = s.diffL := rfl
@[simp] theorem takeEvent_nL (s : State) : (takeEvent s).nL = s.nL := rfl
@[simp] theorem takeEvent_err (s : State) : (takeEvent s).err = s.err := rfl
@[simp] theorem takeEvent_diff (s : State) : (takeEvent s).diff = s.diff := rfl
@[simp] theorem takeEvent_bufLen (s : State) : (takeEvent s).bufLen = s.bufLen := rfl
@[simp] theorem takeEvent_digest (s : State) : (takeEvent s).digest = s.digest := rfl
@[simp] theorem takeEvent_buf (s : State) : (takeEvent s).buf = s.buf := rfl
@[simp] theorem takeEvent_bus (s : State) : (takeEvent s).bus = s.bus := rfl
@[simp] theorem takeEvent_events (s : State) : (takeEvent s).events = s.events.tail := rfl
@[simp] theorem takeEvent_bufEpoch (s : State) : (takeEvent s).bufEpoch = s.bufEpoch := rfl
@[simp] theorem takeEvent_undefCount (s : State) : (takeEvent s).undefCount = s.undefCount := rfl

/-! `regWrite`: only the host's own registers can change. -/

@[simp] theorem regWrite_params (s : State) (r : Reg) (v : U32) : (regWrite s r v).params = s.params := by cases r <;> rfl
@[simp] theorem regWrite_lh (s : State) (r : Reg) (v : U32) : (regWrite s r v).lh = s.lh := by cases r <;> rfl
@[simp] theorem regWrite_gen (s : State) (r : Reg) (v : U32) : (regWrite s r v).gen = s.gen := by cases r <;> rfl
@[simp] theorem regWrite_seed (s : State) (r : Reg) (v : U32) : (regWrite s r v).seed = s.seed := by cases r <;> rfl
@[simp] theorem regWrite_nonce (s : State) (r : Reg) (v : U32) : (regWrite s r v).nonce = s.nonce := by cases r <;> rfl
@[simp] theorem regWrite_acc (s : State) (r : Reg) (v : U32) : (regWrite s r v).acc = s.acc := by cases r <;> rfl
@[simp] theorem regWrite_phase (s : State) (r : Reg) (v : U32) : (regWrite s r v).phase = s.phase := by cases r <;> rfl
@[simp] theorem regWrite_fidx (s : State) (r : Reg) (v : U32) : (regWrite s r v).fidx = s.fidx := by cases r <;> rfl
@[simp] theorem regWrite_round (s : State) (r : Reg) (v : U32) : (regWrite s r v).round = s.round := by cases r <;> rfl
@[simp] theorem regWrite_diffL (s : State) (r : Reg) (v : U32) : (regWrite s r v).diffL = s.diffL := by cases r <;> rfl
@[simp] theorem regWrite_nL (s : State) (r : Reg) (v : U32) : (regWrite s r v).nL = s.nL := by cases r <;> rfl
@[simp] theorem regWrite_err (s : State) (r : Reg) (v : U32) : (regWrite s r v).err = s.err := by cases r <;> rfl
@[simp] theorem regWrite_buf (s : State) (r : Reg) (v : U32) : (regWrite s r v).buf = s.buf := by cases r <;> rfl
@[simp] theorem regWrite_bus (s : State) (r : Reg) (v : U32) : (regWrite s r v).bus = s.bus := by cases r <;> rfl
@[simp] theorem regWrite_events (s : State) (r : Reg) (v : U32) : (regWrite s r v).events = s.events := by cases r <;> rfl
@[simp] theorem regWrite_bufEpoch (s : State) (r : Reg) (v : U32) : (regWrite s r v).bufEpoch = s.bufEpoch := by cases r <;> rfl
@[simp] theorem regWrite_undefCount (s : State) (r : Reg) (v : U32) : (regWrite s r v).undefCount = s.undefCount := by cases r <;> rfl

/-! The choices of PHASE and ERR. -/

@[simp] theorem firstError_none (e : ErrCode) : firstError .none e = e := rfl

theorem firstError_of_ne {old : ErrCode} (e : ErrCode) (h : old ≠ .none) : firstError old e = old := by
  simp [firstError, h]

@[simp] theorem phaseAfterFill_end (n : U32) (p : U4) : phaseAfterFill n n p = phBinit := by simp [phaseAfterFill]

theorem phaseAfterFill_of_ne {f n : U32} (p : U4) (h : f ≠ n) : phaseAfterFill f n p = p := by simp [phaseAfterFill, h]

theorem phaseAfterFill_cases (f n : U32) (p : U4) :
    (f = n ∧ phaseAfterFill f n p = phBinit) ∨ (f ≠ n ∧ phaseAfterFill f n p = p) := by
  by_cases h : f = n <;> simp [phaseAfterFill, h]

@[simp] theorem phaseAfterRound_end (p : U4) : phaseAfterRound rounds p = phTest := rfl

theorem phaseAfterRound_of_ne {r : BitVec 11} (p : U4) (h : r ≠ rounds) : phaseAfterRound r p = p := by
  simp [phaseAfterRound, h]

theorem phaseAfterRound_cases (r : BitVec 11) (p : U4) :
    (r = rounds ∧ phaseAfterRound r p = phTest) ∨ (r ≠ rounds ∧ phaseAfterRound r p = p) := by
  by_cases h : r = rounds <;> simp [phaseAfterRound, h]

theorem phaseAfterTest_cases (acc : U64) (d : U8) :
    (passes acc d = true ∧ phaseAfterTest acc d = phFound) ∨ (passes acc d = false ∧ phaseAfterTest acc d = phIncr) := by
  cases h : passes acc d <;> simp [phaseAfterTest, h]

theorem resetLength_toNat (n : U32) : (resetLength n).toNat = min 1048576 n.toNat := by
  unfold resetLength
  split
  · simp_all [BitVec.lt_def]
    omega
  · simp_all [BitVec.lt_def]

end Sys2Proof.Machine
end

