-- ==== Sys2Proof/Laws/Buffer.lean ====
section
/-! SUPPORT. The work buffer: what a store does to a lookup, that it keeps the canonical form, and what the two checked
accesses can answer. -/

namespace Sys2Proof.Machine

@[simp] theorem bufLookup_bufStore_same (m : Memory) (j : Nat) (v : U64) :
    bufLookup (bufStore m j v) j = some v := by
  induction m with
  | nil => simp [bufStore, bufLookup]
  | cons e m ih =>
    obtain ⟨i, w⟩ := e
    unfold bufStore
    split
    · simp [bufLookup]
    · split
      · simp [bufLookup]
      · rename_i _ h
        simp [bufLookup, ih, Ne.symm h]

theorem bufLookup_bufStore_other (m : Memory) (j k : Nat) (v : U64) (h : k ≠ j) :
    bufLookup (bufStore m j v) k = bufLookup m k := by
  induction m with
  | nil => simp [bufStore, bufLookup, Ne.symm h]
  | cons e m ih =>
    obtain ⟨i, w⟩ := e
    unfold bufStore
    split
    · simp [bufLookup, Ne.symm h]
    · split
      · rename_i _ h'
        subst h'
        simp [bufLookup, Ne.symm h]
      · by_cases hk : i = k <;> simp [bufLookup, hk, ih]

/-- What every entry holds after a store. -/
theorem bufLookup_bufStore (m : Memory) (j k : Nat) (v : U64) :
    bufLookup (bufStore m j v) k = if k = j then some v else bufLookup m k := by
  by_cases h : k = j
  · simp [h]
  · simp [h, bufLookup_bufStore_other]

/-- The index of the first entry, if the buffer has one, is above `i`. -/
def headAbove (i : Nat) : Memory → Prop
  | [] => True
  | (j, _) :: _ => i < j

theorem wf_cons (i : Nat) (v : U64) (m : Memory) :
    Memory.wf ((i, v) :: m) = true ↔ headAbove i m ∧ Memory.wf m = true := by
  cases m with
  | nil => simp [Memory.wf, headAbove]
  | cons e m => simp [Memory.wf, headAbove]

theorem headAbove_bufStore (i j : Nat) (v : U64) (m : Memory) (h : headAbove i m) (hj : i < j) :
    headAbove i (bufStore m j v) := by
  cases m with
  | nil => exact hj
  | cons e m =>
    obtain ⟨k, w⟩ := e
    have hk : i < k := h
    unfold bufStore
    split
    · exact hj
    · split
      · exact hj
      · exact hk

/-- A store keeps the canonical form. -/
theorem wf_bufStore (m : Memory) (j : Nat) (v : U64) (h : Memory.wf m = true) :
    Memory.wf (bufStore m j v) = true := by
  induction m with
  | nil => rfl
  | cons e m ih =>
    obtain ⟨i, w⟩ := e
    obtain ⟨ha, hm⟩ := (wf_cons i w m).1 h
    unfold bufStore
    split
    · rename_i hji
      exact (wf_cons j v _).2 ⟨hji, h⟩
    · split
      · rename_i hji
        subst hji
        exact (wf_cons j v m).2 ⟨ha, hm⟩
      · rename_i h1 h2
        exact (wf_cons i w _).2 ⟨headAbove_bufStore i j v m ha (by omega), ih hm⟩

/-- The buffer after reset has the canonical form. -/
theorem wf_reset : Memory.wf State.reset.buf = true := rfl

theorem written_storeEntry (s : State) (j k : Nat) (v : U64) :
    written (storeEntry s j v) k = (decide (k = j) || written s k) := by
  by_cases h : k = j <;> simp [written, bufLookup_bufStore, h]

theorem bufValue_storeEntry (s : State) (j k : Nat) (v : U64) :
    bufValue (storeEntry s j v) k = if k = j then v else bufValue s k := by
  by_cases h : k = j <;> simp [bufValue, bufLookup_bufStore, h]

/-- A checked read answers a next state only through the entry's value, and only where the entry exists. -/
theorem memRead_next {s t : State} {j : Nat} {k : U64 → Result} (h : memRead s j k = .next t) :
    entryExists s j = true ∧ k (bufValue s j) = .next t := by
  unfold memRead at h
  split at h
  · exact ⟨‹_›, h⟩
  · cases h

/-- A checked read of an entry that exists. -/
theorem memRead_exists {s : State} {j : Nat} {k : U64 → Result} (h : j < s.params.bufWordsMax.toNat) :
    memRead s j k = k (bufValue s j) := by
  simp [memRead, entryExists, h]

/-- A checked read of an entry that does not exist. -/
theorem memRead_missing {s : State} {j : Nat} {k : U64 → Result} (h : ¬ j < s.params.bufWordsMax.toNat) :
    memRead s j k = .fault (.noSuchEntry j) := by
  simp [memRead, entryExists, h]

/-- A checked write answers a next state only through the stored entry, and only where the entry exists. -/
theorem memWrite_next {s t : State} {j : Nat} {v : U64} {k : State → Result} (h : memWrite s j v k = .next t) :
    entryExists s j = true ∧ k (storeEntry s j v) = .next t := by
  unfold memWrite at h
  split at h
  · exact ⟨‹_›, h⟩
  · cases h

/-- A checked write of an entry that exists. -/
theorem memWrite_exists {s : State} {j : Nat} {v : U64} {k : State → Result} (h : j < s.params.bufWordsMax.toNat) :
    memWrite s j v k = k (storeEntry s j v) := by
  simp [memWrite, entryExists, h]

/-- A checked write of an entry that does not exist. -/
theorem memWrite_missing {s : State} {j : Nat} {v : U64} {k : State → Result} (h : ¬ j < s.params.bufWordsMax.toNat) :
    memWrite s j v k = .fault (.noSuchEntry j) := by
  simp [memWrite, entryExists, h]

end Sys2Proof.Machine
end

