-- ==== Sys2Proof/Laws/Decode.lean ====
section
/-! SUPPORT. The fields of a command word and what masking one does. -/

namespace Sys2Proof

theorem commandWord_getLsbD (ign : BitVec 28) (cmd : U4) (i : Nat) :
    (commandWord ign cmd).getLsbD i = if i < 4 then cmd.getLsbD i else ign.getLsbD (i - 4) := by
  unfold commandWord
  exact BitVec.getLsbD_append

@[simp] theorem cmdField_commandWord (ign : BitVec 28) (cmd : U4) : cmdField (commandWord ign cmd) = cmd := by
  apply BitVec.eq_of_getLsbD_eq
  intro i hi
  simp [cmdField, commandWord_getLsbD, hi]

@[simp] theorem ignoredField_commandWord (ign : BitVec 28) (cmd : U4) : ignoredField (commandWord ign cmd) = ign := by
  apply BitVec.eq_of_getLsbD_eq
  intro i hi
  simp [ignoredField, commandWord_getLsbD, hi]

@[simp] theorem commandWord_fields (w : U32) : commandWord (ignoredField w) (cmdField w) = w := by
  apply BitVec.eq_of_getLsbD_eq
  intro i hi
  rw [commandWord_getLsbD]
  by_cases h : i < 4
  · simp [cmdField, h]
  · simp [ignoredField, h, show i - 4 < 28 by omega, show 4 + (i - 4) = i by omega]

/-- Masking a command word by a mask of the CMD field looks at the CMD field alone. -/
theorem commandWord_and (ign : BitVec 28) (cmd mask value : U4) :
    commandWord ign cmd &&& commandWord 0#28 mask = commandWord 0#28 value ↔ cmd &&& mask = value := by
  have hand : commandWord ign cmd &&& commandWord 0#28 mask = commandWord 0#28 (cmd &&& mask) := by
    apply BitVec.eq_of_getLsbD_eq
    intro i _
    by_cases h : i < 4 <;> simp [commandWord_getLsbD, h]
  rw [hand]
  constructor
  · intro h
    simpa using congrArg cmdField h
  · intro h
    rw [h]

end Sys2Proof
end

