-- ==== Sys2Proof/Laws/PerInstr.lean ====
section
/-! SUPPORT. The family EncodesItsRow: the code of a well-formed instruction is one of its own row of
spec/opcode_table.json, and of no other row. One lemma per constructor of Instr. -/

namespace Sys2Proof.Laws.EncodesItsRow

/-- The code of `i` is taken by `i`'s row, a row of the table, and by no other row. -/
def Statement (i : Instr) : Prop :=
  i.wellFormed = true →
    rowOf i ∈ opcodeRows ∧ (rowOf i).takes (encode i) = true ∧
      ∀ r ∈ opcodeRows, r.takes (encode i) = true → r = rowOf i

/-- A command word lies in a row of format CMD exactly when its CMD field does. -/
theorem takes_commandWord (r : Row) (ign : BitVec 28) (cmd : U4) (hr : r ∈ opcodeRows) :
    r.takes (.command (commandWord ign cmd)) = r.takes (.command (commandWord 0#28 cmd)) := by
  have key : ∀ mask value : U4,
      (Row.cmd (commandWord 0#28 mask) (commandWord 0#28 value)).takes (.command (commandWord ign cmd)) =
        (Row.cmd (commandWord 0#28 mask) (commandWord 0#28 value)).takes (.command (commandWord 0#28 cmd)) := by
    intro mask value
    simp only [Row.takes, commandWord_and]
  simp only [opcodeRows, List.mem_cons, List.not_mem_nil, or_false] at hr
  rcases hr with h | h | h | h | h | h | h | h | h | h | h | h | h | h | h | h | h | h <;> subst h <;>
    first
    | exact key 0xF#4 0x0#4
    | exact key 0xF#4 0x1#4
    | exact key 0xF#4 0x2#4
    | exact key 0xF#4 0x3#4
    | exact key 0xC#4 0x4#4
    | exact key 0x8#4 0x8#4
    | rfl

/-- For a command it is enough to look at the code with every ignored bit 0. -/
theorem of_commandWord {i : Instr} {ign : BitVec 28} {cmd : U4} (he : encode i = .command (commandWord ign cmd))
    (hm : rowOf i ∈ opcodeRows)
    (h : (rowOf i).takes (.command (commandWord 0#28 cmd)) = true ∧
      ∀ r ∈ opcodeRows, r.takes (.command (commandWord 0#28 cmd)) = true → r = rowOf i) : Statement i := by
  intro _
  rw [he]
  refine ⟨hm, ?_, ?_⟩
  · rw [takes_commandWord _ _ _ hm]
    exact h.1
  · intro r hr ht
    rw [takes_commandWord _ _ _ hr] at ht
    exact h.2 r hr ht

theorem nop (ign : BitVec 28) : Statement (.nop ign) :=
  of_commandWord (cmd := 0x0#4) rfl (by simp [rowOf, opcodeRows]) (by simp only [rowOf]; decide)
theorem start (ign : BitVec 28) : Statement (.start ign) :=
  of_commandWord (cmd := 0x1#4) rfl (by simp [rowOf, opcodeRows]) (by simp only [rowOf]; decide)
theorem abort (ign : BitVec 28) : Statement (.abort ign) :=
  of_commandWord (cmd := 0x2#4) rfl (by simp [rowOf, opcodeRows]) (by simp only [rowOf]; decide)
theorem clrerr (ign : BitVec 28) : Statement (.clrerr ign) :=
  of_commandWord (cmd := 0x3#4) rfl (by simp [rowOf, opcodeRows]) (by simp only [rowOf]; decide)

theorem reservedCmdLow (code : U4) (ign : BitVec 28) : Statement (.reservedCmdLow code ign) := by
  intro hw
  refine of_commandWord (cmd := code) rfl (by simp [rowOf, opcodeRows]) ?_ hw
  have key : ∀ c : U4, c.extractLsb' 2 2 = 0b01#2 →
      (Row.cmd 0x0000000C#32 0x00000004#32).takes (.command (commandWord 0#28 c)) = true ∧
        ∀ r ∈ opcodeRows, r.takes (.command (commandWord 0#28 c)) = true →
          r = Row.cmd 0x0000000C#32 0x00000004#32 := by
    decide
  exact key code (by simpa [Instr.wellFormed] using hw)

theorem reservedCmdHigh (code : U4) (ign : BitVec 28) : Statement (.reservedCmdHigh code ign) := by
  intro hw
  refine of_commandWord (cmd := code) rfl (by simp [rowOf, opcodeRows]) ?_ hw
  have key : ∀ c : U4, c.getLsbD 3 = true →
      (Row.cmd 0x00000008#32 0x00000008#32).takes (.command (commandWord 0#28 c)) = true ∧
        ∀ r ∈ opcodeRows, r.takes (.command (commandWord 0#28 c)) = true →
          r = Row.cmd 0x00000008#32 0x00000008#32 := by
    decide
  exact key code hw

theorem idleHold : Statement .idleHold := by unfold Statement; decide
theorem seedAdvance : Statement .seedAdvance := by unfold Statement; decide
theorem stateDerive : Statement .stateDerive := by unfold Statement; decide
theorem fillStep : Statement .fillStep := by unfold Statement; decide
theorem bounceInit : Statement .bounceInit := by unfold Statement; decide
theorem bounceStep : Statement .bounceStep := by unfold Statement; decide
theorem diffTest : Statement .diffTest := by unfold Statement; decide
theorem nonceInc : Statement .nonceInc := by unfold Statement; decide
theorem foundHold : Statement .foundHold := by unfold Statement; decide
theorem reservedPhase9 : Statement .reservedPhase9 := by unfold Statement; decide
theorem reservedPhaseAB (code : U4) : Statement (.reservedPhaseAB code) := by
  unfold Statement; revert code; decide
theorem reservedPhaseCF (code : U4) : Statement (.reservedPhaseCF code) := by
  unfold Statement; revert code; decide

end Sys2Proof.Laws.EncodesItsRow
end

