-- ==== Sys2Proof/Laws/Step.lean ====
section
/-! SUPPORT. What one step does, said once: which event it performs, what each event can answer, and which
micro-operation each phase runs. -/

namespace Sys2Proof.Machine

/-- A step performs the next event on the state with that event taken off the list. -/
theorem step_eq (s : State) : step s = perform (nextEvent s) (takeEvent s) := by
  obtain ⟨p, lh, g, sd, n, a, ph, fi, r, dl, nl, er, df, bl, dg, b, bu, ev, be, uc⟩ := s
  cases ev <;> rfl

@[simp] theorem perform_seq (s : State) : perform .seq s = sequencerTurn s := rfl
@[simp] theorem perform_host (a : HostAccess) (s : State) : perform (.host a) s = hostAccess a s := rfl
@[simp] theorem perform_reset (s : State) : perform .reset s = .next (resetEvent s) := rfl

theorem sequencerTurn_eq (s : State) : sequencerTurn s = exec (nextMicroOp s) s := rfl

theorem nextMicroOp_idle {s : State} (h : s.phase = phIdle) : nextMicroOp s = .idleHold := by
  simp [nextMicroOp, decode, decodePhase, h, phIdle]
theorem nextMicroOp_seed {s : State} (h : s.phase = phSeed) : nextMicroOp s = .seedAdvance := by
  simp [nextMicroOp, decode, decodePhase, h, phSeed]
theorem nextMicroOp_derive {s : State} (h : s.phase = phDerive) : nextMicroOp s = .stateDerive := by
  simp [nextMicroOp, decode, decodePhase, h, phDerive]
theorem nextMicroOp_fill {s : State} (h : s.phase = phFill) : nextMicroOp s = .fillStep := by
  simp [nextMicroOp, decode, decodePhase, h, phFill]
theorem nextMicroOp_binit {s : State} (h : s.phase = phBinit) : nextMicroOp s = .bounceInit := by
  simp [nextMicroOp, decode, decodePhase, h, phBinit]
theorem nextMicroOp_bounce {s : State} (h : s.phase = phBounce) : nextMicroOp s = .bounceStep := by
  simp [nextMicroOp, decode, decodePhase, h, phBounce]
theorem nextMicroOp_test {s : State} (h : s.phase = phTest) : nextMicroOp s = .diffTest := by
  simp [nextMicroOp, decode, decodePhase, h, phTest]
theorem nextMicroOp_incr {s : State} (h : s.phase = phIncr) : nextMicroOp s = .nonceInc := by
  simp [nextMicroOp, decode, decodePhase, h, phIncr]
theorem nextMicroOp_found {s : State} (h : s.phase = phFound) : nextMicroOp s = .foundHold := by
  simp [nextMicroOp, decode, decodePhase, h, phFound]

/-- PHASE is one of the nine phases or a reserved code (30_encoding.md R115). -/
theorem phase_cases (p : U4) :
    p = phIdle ∨ p = phSeed ∨ p = phDerive ∨ p = phFill ∨ p = phBinit ∨ p = phBounce ∨ p = phTest ∨ p = phIncr ∨
      p = phFound ∨ 8 < p.toNat := by
  revert p
  decide

/-- A reserved PHASE code stops the sequencer's turn (30_encoding.md R116). -/
theorem sequencerTurn_reserved {s : State} (h : 8 < s.phase.toNat) : sequencerTurn s = .fault (.reservedPhase s.phase) := by
  have key : ∀ (p : U4) (t : State), 8 < p.toNat → exec (decodePhase p) t = .fault (.reservedPhase p) := by
    intro p t hp
    have hlt : p.toNat < 16 := p.isLt
    have cases : p = 9#4 ∨ p = 10#4 ∨ p = 11#4 ∨ p = 12#4 ∨ p = 13#4 ∨ p = 14#4 ∨ p = 15#4 := by
      revert p; decide
    rcases cases with h | h | h | h | h | h | h <;> subst h <;> rfl
  exact key s.phase s h

/-- What a turn of the sequencer can answer: the micro-operation of each phase, said once. -/
theorem sequencerTurn_next {s t : State} (h : sequencerTurn s = .next t) :
    (s.phase = phIdle ∧ t = s) ∨
    (s.phase = phSeed ∧ t = { s with seed := s.seed * s.params.seedMult, phase := phDerive }) ∨
    (s.phase = phDerive ∧ t = { s with gen := deriveState s.lh s.seed, fidx := 0#32, phase := phFill }) ∨
    (s.phase = phFill ∧ entryExists s s.fidx.toNat = true ∧
      t = fillAdvance (prngNext s.gen).2 (storeEntry s s.fidx.toNat (prngNext s.gen).1)) ∨
    (s.phase = phBinit ∧ entryExists s 0 = true ∧
      t = { s with acc := bufValue s 0, round := 0#11, phase := phBounce }) ∨
    (s.phase = phBounce ∧ s.nL = 0#32 ∧
      t = bounceFold (prngNext s.gen).2 (Config.bounceUndefined s.undefCount) { s with undefCount := s.undefCount + 1 }) ∨
    (s.phase = phBounce ∧ s.nL ≠ 0#32 ∧ entryExists s (bounceIndex (prngNext s.gen).1 s.nL).toNat = true ∧
      t = bounceFold (prngNext s.gen).2 (bufValue s (bounceIndex (prngNext s.gen).1 s.nL).toNat) s) ∨
    (s.phase = phTest ∧ t = { s with phase := phaseAfterTest s.acc s.diffL }) ∨
    (s.phase = phIncr ∧ t = { s with nonce := s.nonce + 1#32, phase := phSeed }) ∨
    (s.phase = phFound ∧ t = s) := by
  have next_inj : ∀ {a b : State}, (Host.Outcome.next a : Result) = .next b → b = a := by
    intro a b hab
    cases hab
    rfl
  rw [sequencerTurn_eq] at h
  rcases phase_cases s.phase with p | p | p | p | p | p | p | p | p | p
  · rw [nextMicroOp_idle p] at h
    exact .inl ⟨p, next_inj h⟩
  · rw [nextMicroOp_seed p] at h
    exact .inr (.inl ⟨p, next_inj h⟩)
  · rw [nextMicroOp_derive p] at h
    exact .inr (.inr (.inl ⟨p, next_inj h⟩))
  · rw [nextMicroOp_fill p] at h
    obtain ⟨he, hk⟩ := memWrite_next (show memWrite s s.fidx.toNat (prngNext s.gen).1
      (fun u => .next (fillAdvance (prngNext s.gen).2 u)) = .next t from h)
    exact .inr (.inr (.inr (.inl ⟨p, he, next_inj hk⟩)))
  · rw [nextMicroOp_binit p] at h
    obtain ⟨he, hk⟩ := memRead_next (show memRead s 0
      (fun v => .next { s with acc := v, round := 0#11, phase := phBounce }) = .next t from h)
    exact .inr (.inr (.inr (.inr (.inl ⟨p, he, next_inj hk⟩))))
  · rw [nextMicroOp_bounce p] at h
    by_cases hn : s.nL = 0#32
    · have h' : execBounceStep s = .next t := h
      unfold execBounceStep at h'
      rw [if_pos hn] at h'
      exact .inr (.inr (.inr (.inr (.inr (.inl ⟨p, hn, next_inj h'⟩)))))
    · have h' : execBounceStep s = .next t := h
      unfold execBounceStep at h'
      rw [if_neg hn] at h'
      obtain ⟨he, hk⟩ := memRead_next h'
      exact .inr (.inr (.inr (.inr (.inr (.inr (.inl ⟨p, hn, he, next_inj hk⟩))))))
  · rw [nextMicroOp_test p] at h
    exact .inr (.inr (.inr (.inr (.inr (.inr (.inr (.inl ⟨p, next_inj h⟩)))))))
  · rw [nextMicroOp_incr p] at h
    exact .inr (.inr (.inr (.inr (.inr (.inr (.inr (.inr (.inl ⟨p, next_inj h⟩))))))))
  · rw [nextMicroOp_found p] at h
    exact .inr (.inr (.inr (.inr (.inr (.inr (.inr (.inr (.inr ⟨p, next_inj h⟩))))))))
  · rw [← sequencerTurn_eq, sequencerTurn_reserved p] at h
    cases h

/-- What a START can answer, said once (45_search_fsm.md R251): two refusals, in this order, or acceptance. -/
theorem execStart_cases (g : BitVec 28) (s : State) :
    (isBusy s.phase = true ∧ execStart g s = .next (raise .busyStart s)) ∨
    (isBusy s.phase = false ∧ badLength s = true ∧ execStart g s = .next (raise .badBufLen s)) ∨
    (isBusy s.phase = false ∧ badLength s = false ∧ execStart g s = .next (acceptStart s)) := by
  unfold execStart
  cases isBusy s.phase <;> cases badLength s <;> simp

/-- What a command can answer, said once: nothing, an accepted START, ABORT, CLRERR, or a recorded error. -/
theorem exec_command (w : U32) (s : State) :
    ∃ t, exec (decode (.command w)) s = .next t ∧
      (t = s ∨ ((∃ g, decode (.command w) = .start g) ∧ isBusy s.phase = false ∧ badLength s = false ∧ t = acceptStart s) ∨
        ((∃ g, decode (.command w) = .abort g) ∧ t = { s with phase := phIdle }) ∨
        ((∃ g, decode (.command w) = .clrerr g) ∧ t = clearErr s) ∨ ∃ e, e ≠ ErrCode.none ∧ t = raise e s) := by
  rw [show decode (.command w) = decodeCommand w from rfl]
  unfold decodeCommand
  simp only
  split
  · exact ⟨s, rfl, .inl rfl⟩
  · rcases execStart_cases (ignoredField w) s with ⟨_, h⟩ | ⟨_, _, h⟩ | ⟨hb, hl, h⟩
    · exact ⟨_, h, .inr (.inr (.inr (.inr ⟨_, by decide, rfl⟩)))⟩
    · exact ⟨_, h, .inr (.inr (.inr (.inr ⟨_, by decide, rfl⟩)))⟩
    · exact ⟨_, h, .inr (.inl ⟨⟨_, rfl⟩, hb, hl, rfl⟩)⟩
  · exact ⟨_, rfl, .inr (.inr (.inl ⟨⟨_, rfl⟩, rfl⟩))⟩
  · exact ⟨_, rfl, .inr (.inr (.inr (.inl ⟨⟨_, rfl⟩, rfl⟩)))⟩
  all_goals exact ⟨_, rfl, .inr (.inr (.inr (.inr ⟨.badCmd, by decide, rfl⟩)))⟩

/-- What a host access can answer, said once: it never stops the machine, and it is ignored, or a read, or a refused
access, or a register write, or a command. -/
theorem hostAccess_cases (a : HostAccess) (s : State) :
    ∃ t, hostAccess a s = .next t ∧
      (t = s ∨ (∃ r, t = respond r s) ∨ (∃ r, t = busError r s) ∨
        (∃ r v, r ≠ Reg.ctrl ∧ t = regWrite (respond writeOk s) r v) ∨
        ∃ addr w, a = .write addr (.w32 w) ∧ isCommand s.params a = true ∧
          exec (decode (.command w)) (respond writeOk s) = .next t) := by
  cases a with
  | read addr width =>
    simp only [hostAccess]
    cases h : offsetOf s.params addr with
    | none => exact ⟨s, rfl, .inl rfl⟩
    | some off =>
      refine ⟨_, rfl, ?_⟩
      unfold windowRead
      split
      · exact .inr (.inl ⟨_, rfl⟩)
      · exact .inr (.inr (.inl ⟨_, rfl⟩))
  | write addr data =>
    simp only [hostAccess]
    cases h : offsetOf s.params addr with
    | none => exact ⟨s, rfl, .inl rfl⟩
    | some off =>
      cases data with
      | w32 v =>
        simp only [windowWrite]
        by_cases ha : aligned off = true
        · simp only [ha, if_true, windowWrite32]
          by_cases hc : regAt off = .ctrl
          · simp only [hc, if_true]
            obtain ⟨t, ht, -⟩ := exec_command v (respond writeOk s)
            exact ⟨t, ht, .inr (.inr (.inr (.inr ⟨addr, v, rfl, by simp [isCommand, h, ha, hc], ht⟩)))⟩
          · simp only [hc, if_false]
            exact ⟨_, rfl, .inr (.inr (.inr (.inl ⟨_, _, hc, rfl⟩)))⟩
        · simp only [ha]
          exact ⟨_, rfl, .inr (.inr (.inl ⟨_, rfl⟩))⟩
      | w8 v => exact ⟨_, rfl, .inr (.inr (.inl ⟨_, rfl⟩))⟩
      | w16 v => exact ⟨_, rfl, .inr (.inr (.inl ⟨_, rfl⟩))⟩
      | w64 v => exact ⟨_, rfl, .inr (.inr (.inl ⟨_, rfl⟩))⟩

/-- A step with an event listed performs that event. -/
theorem step_cons {s : State} {e : Event} {rest : List Event} (h : s.events = e :: rest) :
    step s = perform e { s with events := rest } := by
  rw [step_eq]
  simp [nextEvent, takeEvent, h]

/-- What a step can answer, said once: the sequencer's turn, reset, or a host access with what it can do. -/
theorem step_next {s t : State} (h : step s = .next t) :
    (nextEvent s = .seq ∧ sequencerTurn (takeEvent s) = .next t) ∨
    (nextEvent s = .reset ∧ t = resetEvent (takeEvent s)) ∨
    (∃ a, nextEvent s = .host a ∧
      (t = takeEvent s ∨ (∃ r, t = respond r (takeEvent s)) ∨ (∃ r, t = busError r (takeEvent s)) ∨
        (∃ r v, t = regWrite (respond writeOk (takeEvent s)) r v) ∨
        (∃ i, commandOf s.params (nextEvent s) = some i ∧
          (t = respond writeOk (takeEvent s) ∨
            ((∃ g, i = .start g) ∧ isBusy s.phase = false ∧ badLength s = false ∧
              t = acceptStart (respond writeOk (takeEvent s))) ∨
            ((∃ g, i = .abort g) ∧ t = { respond writeOk (takeEvent s) with phase := phIdle }) ∨
            ((∃ g, i = .clrerr g) ∧ t = clearErr (respond writeOk (takeEvent s))) ∨
            ∃ e, e ≠ ErrCode.none ∧ t = raise e (respond writeOk (takeEvent s)))))) := by
  rw [step_eq] at h
  cases he : nextEvent s with
  | seq => rw [he] at h; exact .inl ⟨rfl, h⟩
  | reset => rw [he] at h; cases h; exact .inr (.inl ⟨rfl, rfl⟩)
  | host a =>
    rw [he, perform_host] at h
    refine .inr (.inr ⟨a, rfl, ?_⟩)
    obtain ⟨t', ht, hc⟩ := hostAccess_cases a (takeEvent s)
    have : t' = t := by rw [ht] at h; cases h; rfl
    subst this
    rcases hc with h | h | h | ⟨r, v, _, h⟩ | ⟨ad, w, rfl, hcm, hx⟩
    · exact .inl h
    · exact .inr (.inl h)
    · exact .inr (.inr (.inl h))
    · exact .inr (.inr (.inr (.inl ⟨r, v, h⟩)))
    · obtain ⟨u, hu, hcc⟩ := exec_command w (respond writeOk (takeEvent s))
      have : u = t' := by rw [hu] at hx; cases hx; rfl
      subst this
      have hcm' : isCommand s.params (.write ad (.w32 w)) = true := hcm
      exact .inr (.inr (.inr (.inr ⟨decode (.command w), by simp [commandOf, hcm'], hcc⟩)))

/-- The offset of an address of the window is what was added to BASE. -/
theorem offsetOf_base_add (p : Config.Params) (off : U8) : offsetOf p (p.base + off.toNat) = some off := by
  have := off.isLt
  simp [offsetOf, this]

@[simp] theorem runSteps_zero (s : State) : runSteps 0 s = .next s := rfl

/-- A run of one step more is the step, then the rest of the run. -/
theorem runSteps_succ_of_next {s t : State} (h : step s = .next t) (n : Nat) : runSteps (n + 1) s = runSteps n t := by
  rw [runSteps, h]

/-- Two runs in a row are one run. -/
theorem runSteps_add {m : Nat} {s t : State} (h : runSteps m s = .next t) (n : Nat) :
    runSteps (m + n) s = runSteps n t := by
  induction m generalizing s with
  | zero => cases h; rw [Nat.zero_add]
  | succ m ih =>
    rw [runSteps] at h
    rw [Nat.succ_add, runSteps]
    cases hs : step s with
    | next u => rw [hs] at h; exact ih h
    | fault r => rw [hs] at h; cases h
    | refused r => rw [hs] at h; cases h

end Sys2Proof.Machine
end

