-- ==== Sys2Proof/Tests/Slice0.lean ====
section
/-! SUPPORT. Tests. Expected values are from spec/ (the source of each is in its comment), most of them the vectors of
95_test_vectors.md; after them, one witness for each statement of Obligations.lean that has hypotheses. -/

namespace Sys2Proof.Machine.Tests

/-- A part of the state after a step that goes on. -/
def after {α : Type} (r : Result) (f : State → α) : Option α :=
  match r with
  | .next t => some (f t)
  | .fault _ => none
  | .refused _ => none

/-- Why a step stops. -/
def stop (r : Result) : Option Fault :=
  match r with
  | .next _ => none
  | .fault e => some e
  | .refused _ => none

/-- The next event is a 32-bit write of `v` at offset `off`. -/
def writing (s : State) (off : Nat) (v : U32) : State :=
  { s with events := [.host (.write (s.params.base + off) (.w32 v))] }

/-- The digest E of 95_test_vectors.md. -/
def digestE : Digest :=
  ⟨0xE3B0C442#32, 0x98FC1C14#32, 0x9AFBF4C8#32, 0x996FB924#32, 0x27AE41E4#32, 0x649B934C#32, 0xA495991B#32, 0x7852B855#32⟩

/-! Well-formedness: each check refuses a term that carries a code of another row. -/

theorem test_wf_reservedCmdLow : (Instr.reservedCmdLow 0x8#4 0#28).wellFormed = false := by decide
theorem test_wf_reservedCmdHigh : (Instr.reservedCmdHigh 0x7#4 0#28).wellFormed = false := by decide
theorem test_wf_reservedPhaseAB : (Instr.reservedPhaseAB 0xC#4).wellFormed = false := by decide
theorem test_wf_reservedPhaseCF : (Instr.reservedPhaseCF 0xB#4).wellFormed = false := by decide

/-! Decoding: command words and phase codes written out from 30_encoding.md R112 and R115. -/

theorem test_decode_nop : decode (.command 0b0001_0010_0011_0100_0101_0110_0111_0000#32) = .nop 0x1234567#28 := by decide
theorem test_decode_start : decode (.command 0b0000_0000_0000_0000_0000_0000_0000_0001#32) = .start 0#28 := by decide
theorem test_decode_abort : decode (.command 0b1000_0000_0000_0000_0000_0000_0000_0010#32) = .abort 0x8000000#28 := by
  decide
theorem test_decode_clrerr : decode (.command 0b0000_0000_0000_0000_0000_0000_0000_0011#32) = .clrerr 0#28 := by decide
theorem test_decode_reservedCmdLow :
    decode (.command 0x00000004#32) = .reservedCmdLow 0b0100#4 0#28 ∧
    decode (.command 0x00000017#32) = .reservedCmdLow 0b0111#4 1#28 := by decide
theorem test_decode_reservedCmdHigh :
    decode (.command 0x00000008#32) = .reservedCmdHigh 0b1000#4 0#28 ∧
    decode (.command 0x0000000F#32) = .reservedCmdHigh 0b1111#4 0#28 := by decide
theorem test_decode_phases :
    decode (.phase 0b0000#4) = .idleHold ∧ decode (.phase 0b0001#4) = .seedAdvance ∧
    decode (.phase 0b0010#4) = .stateDerive ∧ decode (.phase 0b0011#4) = .fillStep ∧
    decode (.phase 0b0100#4) = .bounceInit ∧ decode (.phase 0b0101#4) = .bounceStep ∧
    decode (.phase 0b0110#4) = .diffTest ∧ decode (.phase 0b0111#4) = .nonceInc ∧
    decode (.phase 0b1000#4) = .foundHold := by decide
theorem test_decode_reserved_phases :
    decode (.phase 0b1001#4) = .reservedPhase9 ∧ decode (.phase 0b1010#4) = .reservedPhaseAB 0xA#4 ∧
    decode (.phase 0b1011#4) = .reservedPhaseAB 0xB#4 ∧ decode (.phase 0b1100#4) = .reservedPhaseCF 0xC#4 ∧
    decode (.phase 0b1111#4) = .reservedPhaseCF 0xF#4 := by decide
theorem test_decodeTableWord :
    decodeTableWord 32 0x00000001 = some (.start 0#28) ∧ decodeTableWord 8 0x03 = some .fillStep ∧
    decodeTableWord 0 0 = none ∧ decodeTableWord 40 0 = none := by decide
/-- The next step runs the placed code: START from reset (R251), and a phase code. -/
theorem test_withFetchWord :
    after (step (State.reset.withFetchWord 32 0x00000001)) (fun t => statusWord t) = some 0x00000011#32 ∧
    after (step (State.reset.withFetchWord 8 0x01)) (fun t => t.seed) = some 0x2FD89DDCD351E3DC#64 := by decide

/-! Host commands. -/

/-- TV-CMD-2. -/
theorem test_nop_tv_cmd_2 : after (step (writing State.reset 0 0x12345670#32)) (fun t => statusWord t) = some 0#32 := by
  decide
/-- TV-CMD-1 and TV-LD-1: digest E, BUF_LEN 8, DIFFICULTY 0. -/
theorem test_start_tv_cmd_1 :
    after (step (writing { State.reset with digest := digestE, bufLen := 8#32, diff := 0#8 } 0 1#32))
      (fun t => (statusWord t, t.nonce, t.seed)) = some (0x00000011#32, 0#32, 0x001ED8B55FAC9DEC#64) ∧
    after (step (writing { State.reset with digest := digestE, bufLen := 8#32, diff := 0#8 } 0 1#32))
      (fun t => (t.lh, t.diffL, t.nL)) =
    some (⟨0xE3B0C44298FC1C14#64, 0x9AFBF4C8996FB924#64, 0x27AE41E4649B934C#64, 0xA495991B7852B855#64⟩, 0#8, 8#32) := by
  decide
/-- TV-ERR-1, TV-ERR-2 (BAD_BUF_LEN) and TV-ERR-5 (BUSY_START in BOUNCE). -/
theorem test_start_refused_tv_err :
    after (step (writing { State.reset with bufLen := 0#32 } 0 1#32)) (fun t => statusWord t) = some 0x00000300#32 ∧
    after (step (writing { State.reset with bufLen := 0x00100001#32 } 0 1#32)) (fun t => statusWord t) =
      some 0x00000300#32 ∧
    after (step (writing { State.reset with phase := phBounce } 0 1#32)) (fun t => statusWord t) =
      some 0x00000251#32 := by decide
/-- TV-CMD-6: ABORT in FOUND keeps RESULT. -/
theorem test_abort_tv_cmd_6 :
    after (step (writing { State.reset with phase := phFound, acc := 0xA1E7C0C910663CA1#64 } 0 2#32))
      (fun t => (statusWord t, t.acc)) = some (0#32, 0xA1E7C0C910663CA1#64) := by decide
/-- TV-CMD-8: ABORT in BOUNCE with nonce 5. -/
theorem test_abort_tv_cmd_8 :
    after (step (writing { State.reset with phase := phBounce, nonce := 5#32 } 0 2#32)) (fun t => (t.phase, t.nonce)) =
      some (phIdle, 5#32) := by decide
/-- TV-CMD-7. -/
theorem test_clrerr_tv_cmd_7 :
    after (step (writing { State.reset with err := .badBufLen } 0 3#32)) (fun t => statusWord t) = some 0#32 := by decide
/-- TV-CMD-5, first write. -/
theorem test_reservedCmdLow_tv_cmd_5 :
    after (step (writing State.reset 0 7#32)) (fun t => statusWord t) = some 0x00000100#32 := by decide
/-- TV-CMD-4, and TV-ERR-6 (the first error stays). -/
theorem test_reservedCmdHigh_tv_cmd_4 :
    after (step (writing State.reset 0 0xF#32)) (fun t => statusWord t) = some 0x00000100#32 ∧
    after (step (writing { State.reset with err := .badBufLen } 0 0xF#32)) (fun t => statusWord t) =
      some 0x00000300#32 := by decide

/-! Micro-operations. -/

/-- R256, R257: nothing changes. -/
theorem test_holds : step { State.reset with phase := phIdle } = .next State.reset ∧
    step { State.reset with phase := phFound } = .next { State.reset with phase := phFound } := ⟨rfl, rfl⟩
/-- TV-SEED-1, k = 1 and k = 2. -/
theorem test_seedAdvance_tv_seed_1 :
    after (exec .seedAdvance State.reset) (fun t => (t.seed, t.phase)) = some (0x2FD89DDCD351E3DC#64, phDerive) ∧
    after (exec .seedAdvance { State.reset with seed := 0x2FD89DDCD351E3DC#64 }) (fun t => t.seed) =
      some 0xD72BCC3AEDDA868C#64 := by decide
/-- TV-FILL-2. -/
theorem test_stateDerive_tv_fill_2 :
    after (exec .stateDerive { State.reset with lh := loadLongHash (digestBytes digestE), seed := 0x2FD89DDCD351E3DC#64 })
      (fun t => (t.gen, t.fidx, t.phase)) =
    some (⟨0xCC68599E4BADFFC8#64, 0xB52369144A3E5AF8#64, 0x0876DC38B7CA7090#64, 0x8B4D04C7AB035B89#64⟩, 0#32, phFill) := by
  decide
/-- TV-FILL-1, first entry: TV-PRNG-1, call 1. -/
theorem test_fillStep_tv_fill_1 :
    after (exec .fillStep { State.reset with phase := phFill, gen := ⟨1#64, 2#64, 3#64, 4#64⟩, nL := 3#32 })
      (fun t => (bufValue t 0, t.gen, t.fidx, t.phase)) =
    some (5#64, ⟨7#64, 0#64, 0x40002#64, 0x0000C00000000000#64⟩, 1#32, phFill) := by decide
/-- TV-FILL-1, last entry: TV-PRNG-1, call 3; BINIT (R181). -/
theorem test_fillStep_last_tv_fill_1 :
    after (exec .fillStep { State.reset with
        phase := phFill
        gen := ⟨0x0000C00000000007#64, 0x0000000000040005#64, 0x0000000000040005#64, 0x0000000018000000#64⟩
        nL := 3#32
        fidx := 2#32
        buf := [(0, 5#64), (1, 0x0000C00000000007#64)] })
      (fun t => (t.buf, t.gen, t.phase)) =
    some ([(0, 5#64), (1, 0x0000C00000000007#64), (2, 0x0000C00018000007#64)],
      ⟨0x0000C00018040002#64, 0x0000C00000000007#64, 0x0000C008000E0002#64, 0x8000A00000000300#64⟩, phBinit) := by decide

/-- The state after the fill of TV-FILL-2: digest E, nonce 0, N_L = 8. -/
def filled8 : State :=
  { State.reset with
    phase := phBinit
    nL := 8#32
    fidx := 8#32
    gen := ⟨0x4F610D1F3285C361#64, 0x3226101B195979AE#64, 0xFF4CFE50E09020A9#64, 0x4992B761D7050F18#64⟩
    buf := [(0, 0x57B55E65F6B15B51#64), (1, 0x92345C1B784B7AE0#64), (2, 0x9846F9554AE346BA#64),
      (3, 0xEC90883DA3A30189#64), (4, 0xADE52346EFAF085C#64), (5, 0xF02F25FAC72D6537#64),
      (6, 0x78D96F70FA1279AE#64), (7, 0x7A5E77247D4CA586#64)] }

/-- TV-BNC-1, BOUNCE_INIT. -/
theorem test_bounceInit_tv_bnc_1 :
    after (exec .bounceInit filled8) (fun t => (t.acc, t.round, t.phase)) =
      some (0x57B55E65F6B15B51#64, 0#11, phBounce) := by decide
/-- TV-BNC-1, round 1. -/
theorem test_bounceStep_tv_bnc_1 :
    after (exec .bounceStep { filled8 with phase := phBounce, acc := 0x57B55E65F6B15B51#64 })
      (fun t => (t.acc, t.round, t.phase)) = some (0xC581027E8EFA21B1#64, 1#11, phBounce) := by decide
/-- R206: TEST after the 1024th round. -/
theorem test_bounceStep_last :
    after (exec .bounceStep { filled8 with phase := phBounce, round := 1023#11 }) (fun t => (t.round, t.phase)) =
      some (1024#11, phTest) := by decide
/-- TV-LZC-2: 0005C60269D42294 passes 13 and not 14. -/
theorem test_diffTest_tv_lzc_2 :
    after (exec .diffTest { State.reset with acc := 0x0005C60269D42294#64, diffL := 13#8 }) (fun t => t.phase) =
      some phFound ∧
    after (exec .diffTest { State.reset with acc := 0x0005C60269D42294#64, diffL := 14#8 }) (fun t => t.phase) =
      some phIncr := by decide
/-- TV-LZC-2: 0 passes 64 and not 65. -/
theorem test_diffTest_zero_tv_lzc_2 :
    after (exec .diffTest { State.reset with diffL := 64#8 }) (fun t => t.phase) = some phFound ∧
    after (exec .diffTest { State.reset with diffL := 65#8 }) (fun t => t.phase) = some phIncr := by decide
/-- TV-SEED-2: the nonce wraps, the seed does not restart. -/
theorem test_nonceInc_tv_seed_2 :
    after (exec .nonceInc { State.reset with nonce := 0xFFFFFFFF#32, seed := 0x6A6AD2455FAC9DEC#64 })
      (fun t => (t.nonce, t.phase, t.seed)) = some (0#32, phSeed, 0x6A6AD2455FAC9DEC#64) := by decide
/-- R116. -/
theorem test_reservedPhase :
    stop (step { State.reset with phase := 0x9#4 }) = some (.reservedPhase 0x9#4) ∧
    stop (step { State.reset with phase := 0xB#4 }) = some (.reservedPhase 0xB#4) ∧
    stop (step { State.reset with phase := 0xF#4 }) = some (.reservedPhase 0xF#4) := by decide

/-! The units' functions, the window, and the bus. -/

/-- TV-BNC-2, N_L = 2: a whole attempt for digest E, nonce 0. -/
theorem test_attempt_tv_bnc_2 :
    attempt (loadLongHash (digestBytes digestE)) 0x2FD89DDCD351E3DC#64 2#32 =
      (0x92345C1B784B7AE0#64,
        ⟨0x32DC5EE02543D808#64, 0xDF4DE862E072AB87#64, 0xFB2843359D7D1CCB#64, 0xA7D7085C68D39585#64⟩) := by
  decide +kernel
/-- TV-BIDX-2, TV-BIDX-4, TV-BIDX-7, TV-BIDX-9. -/
theorem test_bounceIndex_tv_bidx :
    bounceIndex 0xFFFFFFFFFFFFFFFF#64 3#32 = 1#32 ∧ bounceIndex 0x0000000080000000#64 7#32 = 0#32 ∧
    bounceIndex 0xFFFFFFFFFFFFFFFF#64 0x80000005#32 = 2147483647#32 ∧
    bounceIndex 0x000000007FFFFFFE#64 0x7FFFFFFF#32 = 2147483646#32 := by decide
/-- TV-LZC-1. -/
theorem test_lzc64_tv_lzc_1 :
    lzc64 0#64 = 64 ∧ lzc64 1#64 = 63 ∧ lzc64 0x8000000000000000#64 = 0 ∧ lzc64 0x00000000FFFFFFFF#64 = 32 ∧
    lzc64 0x0000000100000000#64 = 31 ∧ lzc64 0x0005C60269D42294#64 = 13 := by decide
/-- TV-ERR-3: a 32-bit read at offset 0x01. -/
theorem test_read_unaligned_tv_err_3 :
    after (step { State.reset with events := [.host (.read 0x01 .w32)] }) (fun t => (statusWord t, t.bus)) =
      some (0x00000400#32, some ⟨true, some 0#32⟩) := by decide
/-- TV-ERR-4: a 16-bit write of 1 at offset 0 performs no START. -/
theorem test_write16_tv_err_4 :
    after (step { State.reset with events := [.host (.write 0x00 (.w16 1#16))] }) (fun t => statusWord t) =
      some 0x00000400#32 := by decide
/-- TV-FSM-12: a write of 0x1234 to DIFFICULTY reads back 0x34. -/
theorem test_difficulty_tv_fsm_12 :
    after (step (writing State.reset 0x08 0x1234#32)) (fun t => regRead t .difficulty) = some 0x00000034#32 := by decide
/-- TV-FSM-12: a read of SEED_LO after reset. -/
theorem test_read_seed_tv_fsm_12 :
    after (step { State.reset with events := [.host (.read 0x40 .w32)] }) (fun t => t.bus) =
      some (some ⟨false, some 0x5FAC9DEC#32⟩) := by decide

/-! Witnesses: for each statement with hypotheses, states and operands that meet them. -/

/-- A small block: four buffer entries, SEED_INIT = 12, SEED_MULT = 5, the window at 0x100. -/
def small : State := State.resetFor ⟨4#32, 12#64, 5#64, 0x100⟩

/-- The small block in phase `p` of a search of length 1, its only entry written. -/
def filled1 (p : U4) : State :=
  { small with phase := p, nL := 1#32, fidx := 1#32, buf := [(0, 7#64)], acc := 7#64, diffL := 1#8 }

/-- The invariant from checks on the fields. -/
theorem inv_of_checks {s : State}
    (h : s.params.wf = true ∧ Memory.wf s.buf = true ∧ (∀ e ∈ s.buf, e.1 < s.params.bufWordsMax.toNat) ∧
      s.phase.toNat ≤ 8 ∧ s.round.toNat ≤ 1024 ∧ s.fidx.toNat ≤ s.params.bufWordsMax.toNat)
    (hl : s.phase ≠ phIdle → 1 ≤ s.nL.toNat ∧ s.nL.toNat ≤ s.params.bufWordsMax.toNat)
    (hf : s.phase = phFill → s.fidx.toNat < s.nL.toNat ∧ ∀ j, j < s.fidx.toNat → written s j = true)
    (hd : afterFill s.phase = true → s.fidx = s.nL ∧ ∀ j, j < s.nL.toNat → written s j = true)
    (hb : (s.phase = phBounce → s.round.toNat < 1024) ∧ (afterBounce s.phase = true → s.round = rounds) ∧
      (s.phase = phFound → passes s.acc s.diffL = true) ∧ (s.phase = phIncr → passes s.acc s.diffL = false)) :
    Inv s := by
  have lookup : ∀ (m : Memory) (N : Nat), (∀ e ∈ m, e.1 < N) → ∀ j, (bufLookup m j).isSome = true → j < N := by
    intro m N
    induction m with
    | nil => intro _ j hj; simp [bufLookup] at hj
    | cons e m ih =>
      intro hm j hj
      rw [bufLookup] at hj
      split at hj
      · next h => exact h ▸ hm e (by simp)
      · exact ih (fun e' he' => hm e' (by simp [he'])) j hj
  exact ⟨h.1, h.2.1, fun j hj => lookup s.buf _ h.2.2.1 j hj, h.2.2.2.1, h.2.2.2.2.1, h.2.2.2.2.2, hl, hf, hd, hb.1,
    hb.2.1, hb.2.2.1, hb.2.2.2⟩

theorem inv_seed (s : State) (h : s = { small with phase := phSeed, nL := 4#32 }) : Inv s := by
  subst h
  exact inv_of_checks (by decide) (by decide) (by decide) (by decide) (by decide)
theorem inv_derive : Inv { small with phase := phDerive, nL := 4#32 } :=
  inv_of_checks (by decide) (by decide) (by decide) (by decide) (by decide)
theorem inv_fill : Inv { small with phase := phFill, nL := 2#32 } :=
  inv_of_checks (by decide) (by decide) (by decide) (by decide) (by decide)
theorem inv_binit : Inv (filled1 phBinit) :=
  inv_of_checks (by decide) (by decide) (by decide) (by decide) (by decide)
theorem inv_bounce : Inv { filled1 phBounce with round := 1023#11 } :=
  inv_of_checks (by decide) (by decide) (by decide) (by decide) (by decide)
theorem inv_test : Inv { filled1 phTest with round := 1024#11 } :=
  inv_of_checks (by decide) (by decide) (by decide) (by decide) (by decide)
theorem inv_incr : Inv { filled1 phIncr with round := 1024#11, diffL := 65#8 } :=
  inv_of_checks (by decide) (by decide) (by decide) (by decide) (by decide)
theorem inv_found : Inv { filled1 phFound with round := 1024#11 } :=
  inv_of_checks (by decide) (by decide) (by decide) (by decide) (by decide)
theorem inv_idle : Inv small := inv_of_checks (by decide) (by decide) (by decide) (by decide) (by decide)

theorem witness_DecodeEncodeAgree :
    (Instr.nop 0xFFFFFFF#28).wellFormed = true ∧ (Instr.reservedCmdLow 0x4#4 0#28).wellFormed = true ∧
    (Instr.reservedCmdHigh 0x8#4 0#28).wellFormed = true ∧ (Instr.reservedPhaseAB 0xB#4).wellFormed = true ∧
    (Instr.reservedPhaseCF 0xC#4).wellFormed = true := by decide
theorem witness_CommandDecoderTotalByLowBits :
    (0x10#32 : U32).extractLsb' 0 4 = 0x0#4 ∧ (0xFFFFFFF1#32 : U32).extractLsb' 0 4 = 0x1#4 ∧
    (0x2#32 : U32).extractLsb' 0 4 = 0x2#4 ∧ (0x3#32 : U32).extractLsb' 0 4 = 0x3#4 ∧
    ((0x4#32 : U32).extractLsb' 0 4).toNat = 4 ∧ ((0x17#32 : U32).extractLsb' 0 4).toNat = 7 ∧
    ((0x8#32 : U32).extractLsb' 0 4).toNat = 8 ∧ ((0xF#32 : U32).extractLsb' 0 4).toNat = 15 := by decide
theorem witness_IgnoredBitsHaveNoEffect :
    (0x00000001#32 : U32).extractLsb' 0 4 = (0xFFFFFFF1#32 : U32).extractLsb' 0 4 := by decide
theorem witness_SequencerStepRunsPhase :
    nextEvent small = .seq ∧ nextEvent { small with events := [.seq, .reset] } = .seq := by decide
theorem witness_CtrlWriteStepRunsCommand :
    (writing small 0 1#32).events = .host (.write small.params.base (.w32 1#32)) :: [] := by decide
theorem witness_NopChangesNothing : (0xFFFFFFF0#32 : U32).extractLsb' 0 4 = 0x0#4 := by decide
/-- In IDLE with length 1, and in FOUND with length BUF_WORDS_MAX. -/
theorem witness_StartAccepted :
    (small.phase ∉ [0x1#4, 0x2#4, 0x3#4, 0x4#4, 0x5#4, 0x6#4, 0x7#4] ∧
      1 ≤ ({ small with bufLen := 1#32 } : State).bufLen.toNat ∧ 1 ≤ small.params.bufWordsMax.toNat) ∧
    ((0x8#4 : U4) ∉ [0x1#4, 0x2#4, 0x3#4, 0x4#4, 0x5#4, 0x6#4, 0x7#4] ∧
      1 ≤ small.bufLen.toNat ∧ small.bufLen.toNat = small.params.bufWordsMax.toNat) := by decide
/-- SEED and INCR; IDLE with length 0 and with length BUF_WORDS_MAX + 1. -/
theorem witness_StartRefused :
    (0x1#4 : U4) ∈ [0x1#4, 0x2#4, 0x3#4, 0x4#4, 0x5#4, 0x6#4, 0x7#4] ∧
    (0x7#4 : U4) ∈ [0x1#4, 0x2#4, 0x3#4, 0x4#4, 0x5#4, 0x6#4, 0x7#4] ∧
    small.phase ∉ [0x1#4, 0x2#4, 0x3#4, 0x4#4, 0x5#4, 0x6#4, 0x7#4] ∧
    ({ small with bufLen := 0#32 } : State).bufLen.toNat = 0 ∧
    small.params.bufWordsMax.toNat < ({ small with bufLen := 5#32 } : State).bufLen.toNat := by decide
theorem witness_AbortGoesIdle : (0x12#32 : U32).extractLsb' 0 4 = 0x2#4 := by decide
theorem witness_ClrerrClearsError : (0x13#32 : U32).extractLsb' 0 4 = 0x3#4 := by decide
theorem witness_ReservedCommandRecordsBadCmd :
    4 ≤ ((0x4#32 : U32).extractLsb' 0 4).toNat ∧ 4 ≤ ((0xF#32 : U32).extractLsb' 0 4).toNat := by decide
theorem witness_SeedAdvanceMultipliesSeed :
    small.params.seedMult.toNat % 2 = 1 ∧ small.seed.toNat % 8 = 4 := by decide
/-- The first and the last entry. -/
theorem witness_FillStepWritesNextOutput :
    small.fidx.toNat < small.params.bufWordsMax.toNat ∧
    ({ small with fidx := 3#32 } : State).fidx.toNat < small.params.bufWordsMax.toNat := by decide
theorem witness_BounceInitSeedsAcc : 0 < small.params.bufWordsMax.toNat := by decide
theorem witness_BounceStepFoldsEntry :
    1 ≤ (filled1 phBounce).nL.toNat ∧
    ((filled1 phBounce).gen.w0 + (filled1 phBounce).gen.w3).toNat % 2 ^ 31 % (filled1 phBounce).nL.toNat <
      (filled1 phBounce).params.bufWordsMax.toNat := by decide
theorem witness_BounceStepWithZeroLengthCompletes : ({ small with phase := phBounce } : State).nL.toNat = 0 := by decide
/-- FIDX = BUF_WORDS_MAX; no entry at all; N_L = 8 over four entries with r = 4. -/
theorem witness_AccessBeyondBufferFaults :
    small.params.bufWordsMax.toNat ≤ ({ small with fidx := 4#32 } : State).fidx.toNat ∧
    (State.resetFor ⟨0#32, 12#64, 5#64, 0⟩).params.bufWordsMax.toNat = 0 ∧
    (1 ≤ (8#32 : U32).toNat ∧
      small.params.bufWordsMax.toNat ≤ ((4#64 : U64) + (0#64 : U64)).toNat % 2 ^ 31 % (8#32 : U32).toNat) := by decide
theorem witness_DiffTestBranches :
    (0#8 : U8).toNat = 0 ∧ (64#8 : U8).toNat = 64 ∧ 65 ≤ (65#8 : U8).toNat := by decide
theorem witness_ReservedPhaseFaultsAndIsNeverWritten :
    9 ≤ ({ small with phase := 0x9#4 } : State).phase.toNat ∧ 9 ≤ ({ small with phase := 0xF#4 } : State).phase.toNat ∧
    ({ small with phase := 0x8#4 } : State).phase.toNat ≤ 8 ∧
    (∃ t, step { small with phase := 0x8#4 } = .next t) := ⟨by decide, by decide, by decide, _, rfl⟩
/-- n = 1 and n = 2^32 - 1, with r and r' that differ in bit 31. -/
theorem witness_BounceIndexMasksThenReduces :
    1 ≤ (1#32 : U32).toNat ∧ 1 ≤ (0xFFFFFFFF#32 : U32).toNat ∧
    (0x80000007#64 : U64).extractLsb' 0 31 = (0x7#64 : U64).extractLsb' 0 31 := by decide
theorem witness_LeadingZeroCountIsHighestBit : (1#64 : U64) ≠ 0#64 ∧ (0x8000000000000000#64 : U64) ≠ 0#64 := by decide
/-- d = 0, 1, 64, 65, and a smaller difficulty. -/
theorem witness_PassMeansTopBitsZero :
    (0#8 : U8).toNat = 0 ∧ (1 ≤ (1#8 : U8).toNat ∧ (1#8 : U8).toNat ≤ 64) ∧
    (1 ≤ (64#8 : U8).toNat ∧ (64#8 : U8).toNat ≤ 64) ∧ 65 ≤ (65#8 : U8).toNat ∧
    (passes 0x0005C60269D42294#64 13#8 = true ∧ (12#8 : U8).toNat ≤ (13#8 : U8).toNat) := by decide
theorem witness_BufferBehavesAsPlainMemory : (1 : Nat) ≠ 0 ∧ Memory.wf (filled1 phBinit).buf = true := by decide
theorem witness_OnlyFillStepTouchesBuffer :
    (∃ t, step { small with phase := phFill, nL := 2#32 } = .next t) ∧
    nextEvent { small with phase := phFill, nL := 2#32 } ≠ .reset ∧
    ¬ (nextEvent { small with phase := phFill, nL := 2#32 } = .seq ∧ (phFill : U4) = 0x3#4 ∧ 1 = small.fidx.toNat) :=
  ⟨⟨_, rfl⟩, by decide, by decide⟩
/-- The first and the last aligned offset. -/
theorem witness_SupportedReadHasNoSideEffect :
    (0x00#8 : U8).toNat % 4 = 0 ∧ (0xFC#8 : U8).toNat % 4 = 0 ∧
    ({ small with events := [.host (.read (0x100 + (0xFC#8 : U8).toNat) .w32)] } : State).events =
      .host (.read (small.params.base + (0xFC#8 : U8).toNat) .w32) :: [] := by decide
theorem witness_WindowReadsTheMap : 0x48 ≤ (0x48#8 : U8).toNat ∧ 0x48 ≤ (0xFF#8 : U8).toNat := by decide
theorem witness_WritableRegistersStore :
    (writing small 0x08 5#32).events = .host (.write (small.params.base + 0x08) (.w32 5#32)) :: [] ∧
    (writing small 0x0C 5#32).events = .host (.write (small.params.base + 0x0C) (.w32 5#32)) :: [] ∧
    (writing small 0x2C 5#32).events = .host (.write (small.params.base + 0x10 + 4 * (7 : Fin 8).val) (.w32 5#32)) :: [] ∧
    (6 : Fin 8) ≠ 7 := by decide
theorem witness_ReadOnlyWritesIgnored :
    ((0x04#8 : U8).toNat % 4 = 0 ∧
      (writing small 0x04 5#32).events = .host (.write (small.params.base + (0x04#8 : U8).toNat) (.w32 5#32)) :: []) ∧
    ((0x30#8 : U8).toNat % 4 = 0 ∧ 0x30 ≤ (0x30#8 : U8).toNat ∧
      (writing small 0x30 5#32).events = .host (.write (small.params.base + (0x30#8 : U8).toNat) (.w32 5#32)) :: []) := by
  decide
/-- Unaligned, and aligned of another width, for reads and for writes. -/
theorem witness_UnsupportedAccessIsBusError :
    ((0x01#8 : U8).toNat % 4 ≠ 0 ∧ ({ small with events := [.host (.read 0x101 .w32)] } : State).events =
      .host (.read (small.params.base + (0x01#8 : U8).toNat) .w32) :: []) ∧
    ((Width.w8 ≠ .w32) ∧ ({ small with events := [.host (.read 0x100 .w8)] } : State).events =
      .host (.read (small.params.base + (0x00#8 : U8).toNat) .w8) :: []) ∧
    (writing small 0x03 1#32).events = .host (.write (small.params.base + (0x03#8 : U8).toNat) (.w32 1#32)) :: [] ∧
    ((∀ v, WriteData.w64 1#64 ≠ .w32 v) ∧ ({ small with events := [.host (.write 0x100 (.w64 1#64))] } : State).events =
      .host (.write (small.params.base + (0x00#8 : U8).toNat) (.w64 1#64)) :: []) :=
  ⟨by decide, by decide, by decide, fun _ => WriteData.noConfusion, by decide⟩
/-- The bytes below and above the window. -/
theorem witness_AccessOutsideWindowChangesNothing :
    0xFF < small.params.base ∧ small.params.base + 256 ≤ 0x200 ∧
    ({ small with events := [.host (.read 0x200 .w32)] } : State).events = .host (.read 0x200 .w32) :: [] ∧
    ({ small with events := [.host (.write 0xFF (.w8 1#8))] } : State).events = .host (.write 0xFF (.w8 1#8)) :: [] := by
  decide
theorem witness_FirstErrorIsSticky :
    (∃ t, step (writing { small with err := .badCmd } 0 3#32) = .next t) ∧
    (writing { small with err := .badCmd } 0 3#32).err ≠ .none := ⟨⟨_, rfl⟩, by decide⟩
theorem witness_ErrorsNeverDisturbTheSearch :
    after (step (writing small 0 4#32)) (fun t => decide (t.err ≠ small.err ∧ t.err ≠ .none)) = some true := by decide
theorem witness_MicroStepsKeepInputsAndErrors :
    nextEvent { small with phase := phSeed } = .seq ∧ ∃ t, step { small with phase := phSeed } = .next t :=
  ⟨by decide, _, rfl⟩
theorem witness_ResetEventSetsEverything :
    ({ filled1 phBounce with events := [.reset, .seq] } : State).events = .reset :: [.seq] := by decide
theorem witness_ResetSatisfiesInvariant :
    (⟨1#32, 0#64, 1#64, 0⟩ : Config.Params).wf = true ∧ (⟨0xFFFFFFFF#32, 0#64, 1#64, 256⟩ : Config.Params).wf = true := by
  decide
/-- The last FILL_STEP's phase, the last BOUNCE_STEP, a test. -/
theorem witness_StepKeepsInvariant :
    (Inv { small with phase := phFill, nL := 2#32 } ∧ ∃ t, step { small with phase := phFill, nL := 2#32 } = .next t) ∧
    (Inv { filled1 phBounce with round := 1023#11 } ∧
      ∃ t, step { filled1 phBounce with round := 1023#11 } = .next t) ∧
    (Inv { filled1 phTest with round := 1024#11 } ∧ ∃ t, step { filled1 phTest with round := 1024#11 } = .next t) :=
  ⟨⟨inv_fill, _, rfl⟩, ⟨inv_bounce, _, rfl⟩, inv_test, _, rfl⟩
theorem witness_InvariantStatesNeverStop :
    (Inv (filled1 phBinit) ∧ (filled1 phBinit).phase = 0x4#4) ∧
    (Inv { filled1 phBounce with round := 1023#11 } ∧ (filled1 phBounce).phase = 0x5#4) :=
  ⟨⟨inv_binit, rfl⟩, inv_bounce, rfl⟩
theorem witness_SeedStaysFourModEight :
    (∃ t, step { small with phase := phSeed } = .next t) ∧ small.params.seedInit.toNat % 8 = 4 ∧
    small.params.seedMult.toNat % 2 = 1 ∧ small.seed.toNat % 8 = 4 ∧
    (Config.Params.default.seedInit.toNat % 8 = 4 ∧ Config.Params.default.seedMult.toNat % 2 = 1) :=
  ⟨⟨_, rfl⟩, by decide, by decide, by decide, by decide⟩
/-- One state for each phase, its turn taken. -/
theorem witness_PhaseOrder :
    (Inv small ∧ ∃ t, step small = .next t) ∧
    (Inv { small with phase := phSeed, nL := 4#32 } ∧ ∃ t, step { small with phase := phSeed, nL := 4#32 } = .next t) ∧
    (Inv { small with phase := phDerive, nL := 4#32 } ∧ ∃ t, step { small with phase := phDerive, nL := 4#32 } = .next t) ∧
    (Inv { small with phase := phFill, nL := 2#32 } ∧ ∃ t, step { small with phase := phFill, nL := 2#32 } = .next t) ∧
    (Inv (filled1 phBinit) ∧ ∃ t, step (filled1 phBinit) = .next t) ∧
    (Inv { filled1 phBounce with round := 1023#11 } ∧ ∃ t, step { filled1 phBounce with round := 1023#11 } = .next t) ∧
    (Inv { filled1 phTest with round := 1024#11 } ∧ ∃ t, step { filled1 phTest with round := 1024#11 } = .next t) ∧
    (Inv { filled1 phIncr with round := 1024#11, diffL := 65#8 } ∧
      ∃ t, step { filled1 phIncr with round := 1024#11, diffL := 65#8 } = .next t) ∧
    (Inv { filled1 phFound with round := 1024#11 } ∧ ∃ t, step { filled1 phFound with round := 1024#11 } = .next t) :=
  ⟨⟨inv_idle, _, rfl⟩, ⟨inv_seed _ rfl, _, rfl⟩, ⟨inv_derive, _, rfl⟩, ⟨inv_fill, _, rfl⟩, ⟨inv_binit, _, rfl⟩,
    ⟨inv_bounce, _, rfl⟩, ⟨inv_test, _, rfl⟩, ⟨inv_incr, _, rfl⟩, inv_found, _, rfl⟩
/-- An accepted START, an ABORT and a reset move PHASE. -/
theorem witness_OnlyCommandsAndResetMovePhase :
    (nextEvent (writing small 0 1#32) ≠ .seq ∧
      after (step (writing small 0 1#32)) (fun t => decide (t.phase ≠ small.phase)) = some true) ∧
    (nextEvent (writing (filled1 phTest) 0 2#32) ≠ .seq ∧
      after (step (writing (filled1 phTest) 0 2#32)) (fun t => decide (t.phase ≠ phTest)) = some true) ∧
    after (step { filled1 phTest with events := [.reset] }) (fun t => decide (t.phase ≠ phTest)) = some true := by decide
theorem witness_LatchedInputsChangeOnlyAtStart :
    after (step (writing small 0 1#32))
      (fun t => decide (¬ (t.lh = small.lh ∧ t.diffL = small.diffL ∧ t.nL = small.nL))) = some true := by decide
/-- A micro-step and a write to DIFFICULTY. -/
theorem witness_QuietHostDoesNotAffectSearch :
    (∀ e ∈ [Event.seq, .host (.write 0x108 (.w32 9#32))], quiet small.params e = true) ∧
    ∃ t, runSteps 2 { small with phase := phSeed, events := [Event.seq, .host (.write 0x108 (.w32 9#32))] } = .next t :=
  ⟨by decide, _, rfl⟩
/-- START, one micro-step, a read of STATUS. -/
theorem witness_StatusAfterStartIsNeverIdle :
    ∃ s : State, Inv s ∧ isBusy s.phase = false ∧ badLength s = false ∧
      s.events = .host (.write s.params.base (.w32 (commandWord 0#28 0x1#4))) ::
        (List.replicate 1 Event.seq ++ [.host (.read (s.params.base + 0x04) .w32)]) :=
  ⟨{ small with events := [.host (.write 0x100 (.w32 1#32)), .seq, .host (.read 0x104 .w32)] },
    inv_of_checks (by decide) (by decide) (by decide) (by decide) (by decide), rfl, rfl, by decide⟩
theorem witness_FillRunRefinesFill :
    ∃ s : State, Inv s ∧ s.events = [] ∧ s.phase = 0x3#4 ∧ s.fidx = 0#32 := ⟨_, inv_fill, rfl, rfl, rfl⟩
theorem witness_BounceRunRefinesBounce : ∃ s : State, Inv s ∧ s.events = [] ∧ s.phase = 0x4#4 := ⟨_, inv_binit, rfl, rfl⟩
theorem witness_AttemptRunRefinesAttempt :
    ∃ s : State, Inv s ∧ s.events = [] ∧ s.phase = 0x1#4 := ⟨_, inv_seed _ rfl, rfl, rfl⟩
theorem witness_ZeroDifficultyFindsAtOnce :
    ∃ s : State, Inv s ∧ s.events = [] ∧ s.phase = 0x1#4 ∧ s.diffL = 0#8 := ⟨_, inv_seed _ rfl, rfl, rfl, rfl⟩
theorem witness_UnsatisfiableSearchNeverEnds :
    ∃ s : State, Inv s ∧ s.events = [] ∧ isBusy s.phase = true ∧ 65 ≤ s.diffL.toNat :=
  ⟨{ small with phase := phSeed, nL := 4#32, diffL := 65#8 },
    inv_of_checks (by decide) (by decide) (by decide) (by decide) (by decide), rfl, rfl, by decide⟩
/-- One attempt fails and the second passes: every word of LH is the second seed of the chain (TV-SEED-1), so that the
second attempt's ACC is 0 (41_prng.md R163), with N_L = 1 and difficulty 1. -/
theorem witness_SearchRunRefinesSearch :
    ∃ s : State, Inv s ∧ s.events = [] ∧ s.phase = 0x1#4 ∧ s.seed = s.params.seedInit ∧ s.nonce = 0#32 ∧
      (∀ i, i < 1 → passes (searchAcc s.params s.lh s.nL i) s.diffL = false) ∧
      passes (searchAcc s.params s.lh s.nL 1) s.diffL = true :=
  ⟨{ State.reset with
      phase := phSeed
      nL := 1#32
      diffL := 1#8
      lh := ⟨0xD72BCC3AEDDA868C#64, 0xD72BCC3AEDDA868C#64, 0xD72BCC3AEDDA868C#64, 0xD72BCC3AEDDA868C#64⟩ },
    inv_of_checks (by decide) (by decide) (by decide) (by decide) (by decide), rfl, rfl, rfl, rfl, by decide +kernel,
    by decide +kernel⟩

end Sys2Proof.Machine.Tests
end

namespace Sys2Proof.Machine

/-! The fields of the STATUS word, by position (10_state.md R45). -/

/-- STATUS bit by bit: BUSY, FOUND, the reserved bits [3:2], PHASE, ERR, the reserved bits above. -/
theorem statusWord_getLsbD (s : State) (i : Nat) :
    (statusWord s).getLsbD i =
      if i = 0 then isBusy s.phase
      else if i = 1 then isFound s.phase
      else if i < 4 then false
      else if i < 8 then s.phase.getLsbD (i - 4)
      else (errBits s.err).getLsbD (i - 8) := by
  change BitVec.getLsbD (w := 20 + 4 + 4 + 2 + 1 + 1) _ i = _
  simp only [statusWord, BitVec.getLsbD_append, BitVec.getLsbD_ofBool, BitVec.getLsbD_zero]
  -- In each range of positions both sides are the same field; above bit 11 a 4-bit ERR has no bit left to read.
  split_ifs <;> grind

theorem statusWord_busy (s : State) : (statusWord s).getLsbD 0 = isBusy s.phase := by
  rw [statusWord_getLsbD, if_pos rfl]

theorem statusWord_found (s : State) : (statusWord s).getLsbD 1 = isFound s.phase := by
  simp only [statusWord_getLsbD, Nat.one_ne_zero, if_true, if_false]

@[simp] theorem statusWord_reservedLow (s : State) : (statusWord s).extractLsb' 2 2 = 0#2 := by
  apply BitVec.eq_of_getLsbD_eq
  intro i hi
  simp [statusWord_getLsbD, hi, show 2 + i < 4 by omega, show 2 + i ≠ 1 by omega]

@[simp] theorem statusWord_phase (s : State) : (statusWord s).extractLsb' 4 4 = s.phase := by
  apply BitVec.eq_of_getLsbD_eq
  intro i hi
  simp [statusWord_getLsbD, hi, show 4 + i < 8 by omega, show 4 + i ≠ 1 by omega]

@[simp] theorem statusWord_err (s : State) : (statusWord s).extractLsb' 8 4 = errBits s.err := by
  apply BitVec.eq_of_getLsbD_eq
  intro i hi
  simp [statusWord_getLsbD, hi, show ¬ 8 + i < 4 by omega, show 8 + i ≠ 1 by omega]

@[simp] theorem statusWord_reservedHigh (s : State) : (statusWord s).extractLsb' 12 20 = 0#20 := by
  apply BitVec.eq_of_getLsbD_eq
  intro i hi
  have hpast : (errBits s.err).getLsbD (12 + i - 8) = false := BitVec.getLsbD_of_ge _ _ (by omega)
  simp [statusWord_getLsbD, hpast, show ¬ 12 + i < 4 by omega, show ¬ 12 + i < 8 by omega, show 12 + i ≠ 1 by omega]

/-- The busy phases are the codes 1 to 7 (30_encoding.md R115). -/
theorem isBusy_iff (p : U4) : isBusy p = true ↔ 1 ≤ p.toNat ∧ p.toNat ≤ 7 := by
  revert p
  decide

theorem isFound_iff (p : U4) : isFound p = true ↔ p = phFound := by
  simp [isFound]

/-- FOUND is not a busy phase, so BUSY and FOUND are never both 1. -/
theorem not_isBusy_and_isFound (p : U4) : ¬ (isBusy p = true ∧ isFound p = true) := by
  rintro ⟨hbusy, hfound⟩
  rw [isFound_iff] at hfound
  subst hfound
  exact absurd hbusy (by decide)

/-- Settles O36: each field of STATUS is read off `statusWord_getLsbD`, and the two flags depend on PHASE alone. -/
theorem statusFieldsAndDoneOutput : Obligations.StatusFieldsAndDoneOutput := by
  intro s
  refine ⟨?busy, ?found, statusWord_reservedLow s, statusWord_phase s, ?err, statusWord_reservedHigh s, ?never, ?done⟩
  case busy => rw [statusWord_busy, isBusy_iff]
  case found => rw [statusWord_found, isFound_iff]
  case err =>
    rw [statusWord_err]
    cases s.err <;> rfl
  case never =>
    rw [statusWord_busy, statusWord_found]
    exact not_isBusy_and_isFound s.phase
  case done => rw [statusWord_found, doneO]

/-! A supported write to the window (10_state.md section 4, 20_memory.md R86). -/

theorem aligned_iff (off : U8) : aligned off = true ↔ off.toNat % 4 = 0 := by
  simp [aligned, BitVec.toNat_eq, BitVec.extractLsb'_toNat]

/-- The step of a 32-bit write at an aligned offset is the write of the register there. -/
theorem step_windowWrite32 {s : State} {off : U8} {v : U32} {rest : List Event} (ha : off.toNat % 4 = 0)
    (he : s.events = .host (.write (s.params.base + off.toNat) (.w32 v)) :: rest) :
    step s = windowWrite32 { s with events := rest } (regAt off) v := by
  rw [step_cons he, perform_host]
  simp only [hostAccess, offsetOf_base_add, windowWrite, (aligned_iff off).mpr ha, if_true]

/-- A write to a register other than CTRL is acknowledged and stores what `regWrite` says. -/
theorem windowWrite32_of_ne_ctrl {r : Reg} (hr : r ≠ .ctrl) (s : State) (v : U32) :
    windowWrite32 s r v = .next (regWrite (respond writeOk s) r v) := by
  rw [windowWrite32, if_neg hr]

/-- The read-only registers (10_state.md R49) and the reserved offsets (R54). -/
def Reg.ignoresWrites : Reg → Bool
  | .status | .nonce | .bufMax | .resultLo | .resultHi | .seedLo | .seedHi | .reserved => true
  | .ctrl | .difficulty | .bufLen | .digest _ => false

theorem regWrite_of_ignoresWrites {r : Reg} (hr : r.ignoresWrites = true) (s : State) (v : U32) :
    regWrite s r v = s := by
  cases r with
  | ctrl | difficulty | bufLen | digest => cases hr
  | status | nonce | bufMax | resultLo | resultHi | seedLo | seedHi | reserved => rfl

theorem ne_ctrl_of_ignoresWrites {r : Reg} (hr : r.ignoresWrites = true) : r ≠ .ctrl := by
  rintro rfl
  cases hr

/-- In the map of R43, STATUS and everything from offset 0x30 on ignores writes. -/
theorem ignoresWrites_regAt {off : U8} (h : off = 0x04#8 ∨ 0x30 ≤ off.toNat) : (regAt off).ignoresWrites = true := by
  rcases h with rfl | h
  · rfl
  · unfold regAt
    split <;> simp only [Reg.ignoresWrites, Bool.false_eq_true] <;> omega

/-- Settles O38: the register written at such an offset ignores the write, so only the bus answer remains. -/
theorem readOnlyWritesIgnored : Obligations.ReadOnlyWritesIgnored := by
  intro s off v rest ha hoff he
  have hr : (regAt off).ignoresWrites = true := ignoresWrites_regAt hoff
  rw [step_windowWrite32 ha he, windowWrite32_of_ne_ctrl (ne_ctrl_of_ignoresWrites hr), regWrite_of_ignoresWrites hr]
  rfl

end Sys2Proof.Machine

namespace Sys2Proof.Machine

/-! An unsupported access (20_memory.md R87). -/

theorem windowRead_unsupported {off : U8} {w : Width} (h : off.toNat % 4 ≠ 0 ∨ w ≠ .w32) (s : State) :
    windowRead s off w = busError readError s := by
  rw [windowRead, if_neg]
  rintro ⟨ha, hw⟩
  exact h.elim (fun hoff => hoff ((aligned_iff off).mp ha)) (fun hne => hne hw)

theorem windowWrite_unsupported {off : U8} {d : WriteData} (h : off.toNat % 4 ≠ 0 ∨ ∀ v, d ≠ .w32 v) (s : State) :
    windowWrite s off d = .next (busError writeError s) := by
  cases d with
  | w32 v =>
    have hoff : off.toNat % 4 ≠ 0 := h.resolve_right (fun hne => hne v rfl)
    rw [windowWrite, if_neg (mt (aligned_iff off).mp hoff)]
  | w8 | w16 | w64 => rfl

/-- Settles O39: an unsupported access is `busError` and nothing else, whichever register the offset names. -/
theorem unsupportedAccessIsBusError : Obligations.UnsupportedAccessIsBusError := by
  intro s off rest
  constructor
  · intro w hbad he
    rw [step_cons he, perform_host]
    simp only [hostAccess, offsetOf_base_add, windowRead_unsupported hbad]
    rfl
  · intro d hbad he
    rw [step_cons he, perform_host]
    simp only [hostAccess, offsetOf_base_add, windowWrite_unsupported hbad]
    rfl

/-! When a turn of the sequencer answers a next state, and what it keeps. -/

/-- The bounce index is below N_L (43_bounce.md R200). -/
theorem bounceIndex_toNat_lt (r : U64) {n : U32} (hn : 0 < n.toNat) : (bounceIndex r n).toNat < n.toNat := by
  have hmod : ((r &&& indexMask) % n.setWidth 64).toNat < n.toNat := by
    rw [BitVec.toNat_umod, BitVec.toNat_setWidth_of_le (by decide)]
    exact Nat.mod_lt _ hn
  rw [bounceIndex, BitVec.toNat_setWidth]
  exact (Nat.mod_le _ _).trans_lt hmod

theorem execFillStep_exists {s : State} (h : s.fidx.toNat < s.params.bufWordsMax.toNat) :
    ∃ t, execFillStep s = .next t := by
  unfold execFillStep
  exact ⟨_, memWrite_exists h⟩

theorem execBounceInit_exists {s : State} (h : 0 < s.params.bufWordsMax.toNat) : ∃ t, execBounceInit s = .next t :=
  ⟨_, memRead_exists h⟩

theorem execBounceStep_exists {s : State} (hpos : 0 < s.nL.toNat) (hmax : s.nL.toNat ≤ s.params.bufWordsMax.toNat) :
    ∃ t, execBounceStep s = .next t := by
  have hne : s.nL ≠ 0#32 := by
    intro hzero
    simp [hzero] at hpos
  simp only [execBounceStep, if_neg hne]
  exact ⟨_, memRead_exists ((bounceIndex_toNat_lt _ hpos).trans_le hmax)⟩

/-- A turn of the sequencer answers a next state in every phase that is not reserved, as long as the buffer entries that
FILL, BINIT and BOUNCE touch exist (20_memory.md R80). -/
theorem sequencerTurn_exists {s : State} (hphase : s.phase.toNat ≤ 8)
    (hfill : s.phase = phFill → s.fidx.toNat < s.params.bufWordsMax.toNat)
    (hlength : s.phase ≠ phIdle → 1 ≤ s.nL.toNat ∧ s.nL.toNat ≤ s.params.bufWordsMax.toNat) :
    ∃ t, sequencerTurn s = .next t := by
  rw [sequencerTurn_eq]
  rcases phase_cases s.phase with p | p | p | p | p | p | p | p | p | p
  · exact ⟨_, by rw [nextMicroOp_idle p]; rfl⟩
  · exact ⟨_, by rw [nextMicroOp_seed p]; rfl⟩
  · exact ⟨_, by rw [nextMicroOp_derive p]; rfl⟩
  · rw [nextMicroOp_fill p]
    exact execFillStep_exists (hfill p)
  · rw [nextMicroOp_binit p]
    obtain ⟨hpos, hmax⟩ := hlength (by rw [p]; decide)
    exact execBounceInit_exists (by omega)
  · rw [nextMicroOp_bounce p]
    obtain ⟨hpos, hmax⟩ := hlength (by rw [p]; decide)
    exact execBounceStep_exists hpos hmax
  · exact ⟨_, by rw [nextMicroOp_test p]; rfl⟩
  · exact ⟨_, by rw [nextMicroOp_incr p]; rfl⟩
  · exact ⟨_, by rw [nextMicroOp_found p]; rfl⟩
  · omega

/-- No turn of the sequencer touches the parameters, the latched length or the events to come. -/
theorem sequencerTurn_frame {s t : State} (h : sequencerTurn s = .next t) :
    t.params = s.params ∧ t.nL = s.nL ∧ t.events = s.events := by
  rcases sequencerTurn_next h with ⟨_, rfl⟩ | ⟨_, rfl⟩ | ⟨_, rfl⟩ | ⟨_, _, rfl⟩ | ⟨_, _, rfl⟩ | ⟨_, _, rfl⟩ |
    ⟨_, _, _, rfl⟩ | ⟨_, rfl⟩ | ⟨_, rfl⟩ | ⟨_, rfl⟩ <;> exact ⟨rfl, rfl, rfl⟩

/-! A search under way: what an accepted START sets up and the sequencer keeps (20_memory.md R97). -/

/-- The phases SEED to FOUND: BUSY or FOUND reads 1. -/
def inSearch (p : U4) : Bool := isBusy p || isFound p

theorem toNat_le_of_inSearch {p : U4} (h : inSearch p = true) : p.toNat ≤ 8 := by
  revert p
  decide

/-- The part of `Inv` that keeps a search going: a phase of the search, a legal length, and room left to fill. -/
structure Searching (s : State) : Prop where
  phase : inSearch s.phase = true
  length : 1 ≤ s.nL.toNat ∧ s.nL.toNat ≤ s.params.bufWordsMax.toNat
  filling : s.phase = phFill → s.fidx.toNat < s.nL.toNat

/-- Outside FILL only the phase and the length count. -/
theorem Searching.of_phase {s : State} (p : U4) (hs : s.phase = p) (hp : inSearch p = true ∧ p ≠ phFill)
    (hlength : 1 ≤ s.nL.toNat ∧ s.nL.toNat ≤ s.params.bufWordsMax.toNat) : Searching s where
  phase := hs ▸ hp.1
  length := hlength
  filling := fun hf => absurd (hs.symm.trans hf) hp.2

theorem Searching.setEvents {s : State} (h : Searching s) (events : List Event) : Searching { s with events := events } :=
  ⟨h.phase, h.length, h.filling⟩

theorem badLength_eq_false_iff (s : State) :
    badLength s = false ↔ 1 ≤ s.bufLen.toNat ∧ s.bufLen.toNat ≤ s.params.bufWordsMax.toNat := by
  simp only [badLength, BitVec.toNat_eq, BitVec.toNat_ofNat, Nat.zero_mod, Bool.or_eq_false_iff,
    decide_eq_false_iff_not, BitVec.not_lt, BitVec.le_def]
  omega

theorem searching_acceptStart {s : State} (h : badLength s = false) : Searching (acceptStart s) :=
  .of_phase phSeed rfl (by decide) ((badLength_eq_false_iff s).mp h)

/-- During a search the sequencer never stops. -/
theorem Searching.sequencerTurn_exists {s : State} (h : Searching s) : ∃ t, sequencerTurn s = .next t :=
  Machine.sequencerTurn_exists (toNat_le_of_inSearch h.phase)
    (fun hp => (h.filling hp).trans_le h.length.2) (fun _ => h.length)

/-- FILL_STEP goes on to BINIT, or stays in FILL with room left (42_buffer_fill.md R181). -/
theorem Searching.of_fillAdvance {s : State} (h : Searching s) (hp : s.phase = phFill) (g : Quad) :
    Searching (fillAdvance g s) := by
  rcases phaseAfterFill_cases (s.fidx + 1#32) s.nL s.phase with ⟨_, hnext⟩ | ⟨hne, hnext⟩
  · exact .of_phase phBinit hnext (by decide) h.length
  · have hroom := h.filling hp
    refine ⟨?_, h.length, fun _ => ?_⟩
    · rw [fillAdvance_phase, hnext]
      exact h.phase
    · rw [fillAdvance_fidx, fillAdvance_nL]
      bv_omega

/-- BOUNCE_STEP goes on to TEST or stays in BOUNCE (43_bounce.md R206). -/
theorem Searching.of_bounceFold {s : State} (h : Searching s) (hp : s.phase = phBounce) (g : Quad) (v : U64) :
    Searching (bounceFold g v s) := by
  rcases phaseAfterRound_cases (s.round + 1#11) s.phase with ⟨_, hnext⟩ | ⟨_, hnext⟩
  · exact .of_phase phTest hnext (by decide) h.length
  · exact .of_phase phBounce (hnext.trans hp) (by decide) h.length

/-- Every turn of the sequencer keeps a search going (45_search_fsm.md R250). -/
theorem Searching.of_sequencerTurn {s t : State} (h : Searching s) (ht : sequencerTurn s = .next t) :
    Searching t := by
  rcases sequencerTurn_next ht with ⟨hp, _⟩ | ⟨_, rfl⟩ | ⟨_, rfl⟩ | ⟨hp, _, rfl⟩ | ⟨_, _, rfl⟩ | ⟨_, hzero, _⟩ |
    ⟨hp, _, _, rfl⟩ | ⟨_, rfl⟩ | ⟨_, rfl⟩ | ⟨_, rfl⟩
  · exact absurd (hp ▸ h.phase) (by decide)
  · exact .of_phase phDerive rfl (by decide) h.length
  · exact ⟨rfl, h.length, fun _ => h.length.1⟩
  · exact (Searching.mk h.phase h.length h.filling : Searching (storeEntry s _ _)).of_fillAdvance hp _
  · exact .of_phase phBounce rfl (by decide) h.length
  · have hpos := h.length.1
    simp [hzero] at hpos
  · exact h.of_bounceFold hp _ _
  · rcases phaseAfterTest_cases s.acc s.diffL with ⟨_, hnext⟩ | ⟨_, hnext⟩
    · exact .of_phase phFound hnext (by decide) h.length
    · exact .of_phase phIncr hnext (by decide) h.length
  · exact .of_phase phSeed rfl (by decide) h.length
  · exact h

/-- `k` turns of the sequencer, listed first, keep a search going and leave the events after them. -/
theorem Searching.runSteps_replicate {s : State} {k : Nat} {rest : List Event} (h : Searching s)
    (he : s.events = List.replicate k .seq ++ rest) :
    ∃ t, runSteps k s = .next t ∧ Searching t ∧ t.params = s.params ∧ t.events = rest := by
  induction k generalizing s with
  | zero => exact ⟨s, rfl, h, rfl, he⟩
  | succ k ih =>
    have hstep := step_cons (s := s) (e := .seq) (rest := List.replicate k .seq ++ rest)
      (by rw [he, List.replicate_succ, List.cons_append])
    have hsearch := h.setEvents (List.replicate k .seq ++ rest)
    obtain ⟨u, hu⟩ := hsearch.sequencerTurn_exists
    obtain ⟨hparams, -, hevents⟩ := sequencerTurn_frame hu
    obtain ⟨t, hrun, ht, htparams, htevents⟩ := ih (hsearch.of_sequencerTurn hu) hevents
    exact ⟨t, by rw [runSteps_succ_of_next (hstep.trans hu), hrun], ht, htparams.trans hparams, htevents⟩

/-! The two host accesses around the search: the START and the read of STATUS. -/

theorem decode_commandWord_start (g : BitVec 28) : decode (.command (commandWord g 0x1#4)) = .start g := by
  simp [decode, decodeCommand]

theorem execStart_accepted {s : State} (g : BitVec 28) (hidle : isBusy s.phase = false)
    (hlength : badLength s = false) : execStart g s = .next (acceptStart s) := by
  simp [execStart, hidle, hlength]

/-- The step of an accepted START begins a search and leaves the events after it. -/
theorem step_start_searching {s : State} {g : BitVec 28} {rest : List Event} (hidle : isBusy s.phase = false)
    (hlength : badLength s = false)
    (he : s.events = .host (.write s.params.base (.w32 (commandWord g 0x1#4))) :: rest) :
    ∃ t, step s = .next t ∧ Searching t ∧ t.params = s.params ∧ t.events = rest := by
  refine ⟨acceptStart (respond writeOk { s with events := rest }), ?_, searching_acceptStart hlength, rfl, rfl⟩
  rw [step_windowWrite32 (off := 0x00#8) rfl he, show regAt 0x00#8 = .ctrl from rfl, windowWrite32, if_pos rfl,
    decode_commandWord_start]
  exact execStart_accepted g hidle hlength

/-- The step of a 32-bit read at an aligned offset answers the register there. -/
theorem step_windowRead32 {s : State} {off : U8} {rest : List Event} (ha : off.toNat % 4 = 0)
    (he : s.events = .host (.read (s.params.base + off.toNat) .w32) :: rest) :
    step s = .next (respond (readOk (regRead { s with events := rest } (regAt off))) { s with events := rest }) := by
  rw [step_cons he, perform_host]
  simp only [hostAccess, offsetOf_base_add, windowRead, (aligned_iff off).mpr ha, and_self, if_true]

/-- A read of STATUS during a search answers BUSY = 1 or FOUND = 1. -/
theorem Searching.step_readStatus {s : State} {rest : List Event} (h : Searching s)
    (he : s.events = .host (.read (s.params.base + 0x04) .w32) :: rest) :
    ∃ t v, step s = .next t ∧ t.bus = some ⟨false, some v⟩ ∧ (v.getLsbD 0 = true ∨ v.getLsbD 1 = true) := by
  refine ⟨_, statusWord { s with events := rest }, step_windowRead32 (off := 0x04#8) rfl he, rfl, ?_⟩
  rw [statusWord_busy, statusWord_found, ← Bool.or_eq_true]
  exact h.phase

/-- Settles O54: an accepted START begins a search, every turn of the sequencer keeps it going, and STATUS shows it. -/
theorem statusAfterStartIsNeverIdle : Obligations.StatusAfterStartIsNeverIdle := by
  intro s k g _ hidle hlength he
  obtain ⟨t, hstart, ht, htparams, htevents⟩ := step_start_searching hidle hlength he
  obtain ⟨u, hrun, hu, huparams, huevents⟩ := ht.runSteps_replicate htevents
  obtain ⟨w, v, hread, hbus, hstatus⟩ := hu.step_readStatus (rest := []) (by rw [huevents, huparams, htparams])
  refine ⟨w, v, ?_, hbus, hstatus⟩
  calc runSteps (k + 1 + 1) s = runSteps (k + 1) t := runSteps_succ_of_next hstart _
    _ = runSteps 1 u := runSteps_add hrun 1
    _ = .next w := runSteps_succ_of_next hread 0

end Sys2Proof.Machine

namespace Sys2Proof

/-! The command decoder by the CMD field (30_encoding.md R112, R113). -/

/-- The rows of R112 cover every CMD value. -/
theorem cmd_cases (c : U4) :
    c = 0x0#4 ∨ c = 0x1#4 ∨ c = 0x2#4 ∨ c = 0x3#4 ∨ (4 ≤ c.toNat ∧ c.toNat ≤ 7) ∨ 8 ≤ c.toNat := by
  revert c
  decide

theorem decode_command_nop {w : U32} (h : cmdField w = 0x0#4) : decode (.command w) = .nop (ignoredField w) := by
  simp [decode, decodeCommand, h]

theorem decode_command_start {w : U32} (h : cmdField w = 0x1#4) : decode (.command w) = .start (ignoredField w) := by
  simp [decode, decodeCommand, h]

theorem decode_command_abort {w : U32} (h : cmdField w = 0x2#4) : decode (.command w) = .abort (ignoredField w) := by
  simp [decode, decodeCommand, h]

theorem decode_command_clrerr {w : U32} (h : cmdField w = 0x3#4) : decode (.command w) = .clrerr (ignoredField w) := by
  simp [decode, decodeCommand, h]

theorem decode_command_reservedLow {w : U32} (hmin : 4 ≤ (cmdField w).toNat) (hmax : (cmdField w).toNat ≤ 7) :
    decode (.command w) = .reservedCmdLow (cmdField w) (ignoredField w) := by
  have hcmd : (cmdField w).toNat = 4 ∨ (cmdField w).toNat = 5 ∨ (cmdField w).toNat = 6 ∨ (cmdField w).toNat = 7 := by
    omega
  rcases hcmd with h | h | h | h <;> simp [decode, decodeCommand, h]

theorem decode_command_reservedHigh {w : U32} (h : 8 ≤ (cmdField w).toNat) :
    decode (.command w) = .reservedCmdHigh (cmdField w) (ignoredField w) := by
  simp only [decode, decodeCommand]
  split
  case h_9 => rfl
  all_goals omega

/-- What a command word decodes to is well-formed and encodes to that word (R111: no ignored bit is lost). -/
theorem decode_command_wellFormed_encode (w : U32) :
    (decode (.command w)).wellFormed = true ∧ encode (decode (.command w)) = .command w := by
  have hw : Code.command (commandWord (ignoredField w) (cmdField w)) = .command w := by rw [commandWord_fields]
  rcases cmd_cases (cmdField w) with h | h | h | h | ⟨hmin, hmax⟩ | h
  · rw [h] at hw
    rw [decode_command_nop h]
    exact ⟨rfl, hw⟩
  · rw [h] at hw
    rw [decode_command_start h]
    exact ⟨rfl, hw⟩
  · rw [h] at hw
    rw [decode_command_abort h]
    exact ⟨rfl, hw⟩
  · rw [h] at hw
    rw [decode_command_clrerr h]
    exact ⟨rfl, hw⟩
  · have hrow : ∀ c : U4, 4 ≤ c.toNat → c.toNat ≤ 7 → c.extractLsb' 2 2 = 0b01#2 := by decide
    rw [decode_command_reservedLow hmin hmax]
    exact ⟨decide_eq_true (hrow _ hmin hmax), hw⟩
  · have hrow : ∀ c : U4, 8 ≤ c.toNat → c.getLsbD 3 = true := by decide
    rw [decode_command_reservedHigh h]
    exact ⟨hrow _ h, hw⟩

/-- The family EncodesItsRow for every instruction. -/
theorem Laws.EncodesItsRow.statement (i : Instr) : Laws.EncodesItsRow.Statement i := by
  cases i with
  | nop g => exact nop g
  | start g => exact start g
  | abort g => exact abort g
  | clrerr g => exact clrerr g
  | reservedCmdLow c g => exact reservedCmdLow c g
  | reservedCmdHigh c g => exact reservedCmdHigh c g
  | idleHold => exact idleHold
  | seedAdvance => exact seedAdvance
  | stateDerive => exact stateDerive
  | fillStep => exact fillStep
  | bounceInit => exact bounceInit
  | bounceStep => exact bounceStep
  | diffTest => exact diffTest
  | nonceInc => exact nonceInc
  | foundHold => exact foundHold
  | reservedPhase9 => exact reservedPhase9
  | reservedPhaseAB c => exact reservedPhaseAB c
  | reservedPhaseCF c => exact reservedPhaseCF c

/-- Exactly one row of the opcode table takes a command word. -/
theorem command_row_unique (w : U32) :
    ∃ r ∈ opcodeRows, r.takes (.command w) = true ∧ ∀ r' ∈ opcodeRows, r'.takes (.command w) = true → r' = r := by
  obtain ⟨hwf, henc⟩ := decode_command_wellFormed_encode w
  have hrow := Laws.EncodesItsRow.statement _ hwf
  rw [henc] at hrow
  exact ⟨rowOf (decode (.command w)), hrow⟩

/-- Settles O2: one decoder equation per range of CMD, and the row is that of the instruction, whose code the word is. -/
theorem commandDecoderTotalByLowBits : Obligations.CommandDecoderTotalByLowBits := fun w =>
  ⟨fun h => ⟨_, decode_command_nop h⟩, fun h => ⟨_, decode_command_start h⟩, fun h => ⟨_, decode_command_abort h⟩,
    fun h => ⟨_, decode_command_clrerr h⟩, fun hmin hmax => ⟨_, decode_command_reservedLow hmin hmax⟩,
    fun h => ⟨_, decode_command_reservedHigh h⟩, command_row_unique w⟩

end Sys2Proof

namespace Sys2Proof.Machine

/-! Which phase codes a step can leave in PHASE (30_encoding.md R115, R116). -/

/-- FILL_STEP goes on to BINIT or stays in FILL (42_buffer_fill.md R181). -/
theorem fillAdvance_phase_legal {s : State} (hp : s.phase = phFill) (g : Quad) : (fillAdvance g s).phase.toNat ≤ 8 := by
  rw [fillAdvance_phase, hp]
  rcases phaseAfterFill_cases (s.fidx + 1#32) s.nL phFill with ⟨-, hnext⟩ | ⟨-, hnext⟩ <;> simp [hnext]

/-- BOUNCE_STEP goes on to TEST or stays in BOUNCE (43_bounce.md R206). -/
theorem bounceFold_phase_legal {s : State} (hp : s.phase = phBounce) (g : Quad) (v : U64) :
    (bounceFold g v s).phase.toNat ≤ 8 := by
  rw [bounceFold_phase, hp]
  rcases phaseAfterRound_cases (s.round + 1#11) phBounce with ⟨-, hnext⟩ | ⟨-, hnext⟩ <;> simp [hnext]

/-- A turn of the sequencer leaves one of the nine phases in PHASE, whatever PHASE held. -/
theorem sequencerTurn_phase_legal {s t : State} (h : sequencerTurn s = .next t) : t.phase.toNat ≤ 8 := by
  rcases sequencerTurn_next h with ⟨hp, rfl⟩ | ⟨-, rfl⟩ | ⟨-, rfl⟩ | ⟨hp, -, rfl⟩ | ⟨-, -, rfl⟩ | ⟨hp, -, rfl⟩ |
    ⟨hp, -, -, rfl⟩ | ⟨-, rfl⟩ | ⟨-, rfl⟩ | ⟨hp, rfl⟩
  · simp [hp]
  · simp
  · simp
  · exact fillAdvance_phase_legal ((storeEntry_phase ..).trans hp) _
  · simp
  · exact bounceFold_phase_legal (s := { s with undefCount := s.undefCount + 1 }) hp _ _
  · exact bounceFold_phase_legal hp _ _
  · rcases phaseAfterTest_cases s.acc s.diffL with ⟨-, hnext⟩ | ⟨-, hnext⟩ <;> simp [hnext]
  · simp
  · simp [hp]

/-- A step that is no turn of the sequencer keeps PHASE, or moves it to IDLE (reset, ABORT) or SEED (START). -/
theorem step_phase_cases {s t : State} (h : step s = .next t) :
    sequencerTurn (takeEvent s) = .next t ∨ t.phase = s.phase ∨ t.phase = phIdle ∨ t.phase = phSeed := by
  rcases step_next h with ⟨-, hturn⟩ | ⟨-, rfl⟩ | ⟨_, -, hhost⟩
  · exact .inl hturn
  · exact .inr (.inr (.inl rfl))
  · rcases hhost with rfl | ⟨_, rfl⟩ | ⟨_, rfl⟩ | ⟨_, _, rfl⟩ | ⟨_, -, hcommand⟩
    · exact .inr (.inl rfl)
    · exact .inr (.inl rfl)
    · exact .inr (.inl rfl)
    · exact .inr (.inl (regWrite_phase ..))
    · rcases hcommand with rfl | ⟨-, -, -, rfl⟩ | ⟨-, rfl⟩ | ⟨-, rfl⟩ | ⟨_, -, rfl⟩
      · exact .inr (.inl rfl)
      · exact .inr (.inr (.inr rfl))
      · exact .inr (.inr (.inl rfl))
      · exact .inr (.inl rfl)
      · exact .inr (.inl rfl)

/-- A step from a legal phase leaves a legal phase. -/
theorem step_phase_legal {s t : State} (hs : s.phase.toNat ≤ 8) (h : step s = .next t) : t.phase.toNat ≤ 8 := by
  rcases step_phase_cases h with hturn | hsame | hidle | hseed
  · exact sequencerTurn_phase_legal hturn
  · rwa [hsame]
  · rw [hidle]
    decide
  · rw [hseed]
    decide

/-- Settles O23: the reserved rows fault, PHASE of a reserved code selects one of them, and no step writes such a code. -/
theorem reservedPhaseFaultsAndIsNeverWritten : Obligations.ReservedPhaseFaultsAndIsNeverWritten :=
  ⟨fun _ => rfl, fun _ _ => rfl, fun _ _ => rfl, fun _ h => sequencerTurn_reserved h, fun _ _ => step_phase_legal⟩

end Sys2Proof.Machine

namespace Sys2Proof.Machine

/-! The digest loader: packing is concatenation, the first byte highest (40_loader.md R140, R141). -/

/-- One packing step, from a word that holds an `n`-bit value: the shift clears the low eight bits, which `b` fills. -/
theorem shift_or_byte_eq_append {n : Nat} (x : BitVec n) (b : U8) :
    (x.setWidth 64 <<< 8) ||| b.setWidth 64 = (x ++ b).setWidth 64 := by
  ext i hi
  by_cases hlow : i < 8
  · simp [BitVec.getLsbD_append, hlow]
  · have hbyte : b.getLsbD i = false := BitVec.getLsbD_of_ge b i (by omega)
    simp [BitVec.getLsbD_append, hlow, hbyte]

theorem packBytes_eight (b0 b1 b2 b3 b4 b5 b6 b7 : U8) :
    packBytes [b0, b1, b2, b3, b4, b5, b6, b7] = b0 ++ b1 ++ b2 ++ b3 ++ b4 ++ b5 ++ b6 ++ b7 := by
  have hfirst : (0#64 <<< 8) ||| b0.setWidth 64 = b0.setWidth 64 := by simp
  simp only [packBytes, List.foldl_cons, List.foldl_nil, hfirst, shift_or_byte_eq_append, BitVec.setWidth_eq]

/-- The bytes of a register in the order of `registerBytes` are the register (10_state.md R48). -/
theorem append_registerBytes (r : U32) :
    r.extractLsb' 24 8 ++ r.extractLsb' 16 8 ++ r.extractLsb' 8 8 ++ r.extractLsb' 0 8 = r := by
  rw [BitVec.extractLsb'_append_extractLsb'_eq_extractLsb' (by rfl),
    BitVec.extractLsb'_append_extractLsb'_eq_extractLsb' (by rfl),
    BitVec.extractLsb'_append_extractLsb'_eq_extractLsb' (by rfl)]
  exact BitVec.extractLsb'_eq_self

/-- Four bytes appended one by one are appended as one register. -/
theorem append_four_bytes (x : U32) (b0 b1 b2 b3 : U8) :
    x ++ b0 ++ b1 ++ b2 ++ b3 = x ++ (b0 ++ b1 ++ b2 ++ b3) := by
  calc x ++ b0 ++ b1 ++ b2 ++ b3
      = x ++ (b0 ++ b1) ++ b2 ++ b3 := by rw [BitVec.append_assoc (x₁ := x), BitVec.cast_eq]
    _ = x ++ (b0 ++ b1 ++ b2) ++ b3 := by rw [BitVec.append_assoc (x₁ := x), BitVec.cast_eq]
    _ = x ++ (b0 ++ b1 ++ b2 ++ b3) := BitVec.append_assoc

/-- The word packed from two registers' bytes has the first register as its high half (R141). -/
theorem packBytes_registerBytes_append (r s : U32) : packBytes (registerBytes r ++ registerBytes s) = r ++ s := by
  simp only [registerBytes, List.cons_append, List.nil_append, packBytes_eight]
  rw [append_registerBytes r, append_four_bytes, append_registerBytes s]

/-- Word `l` takes bytes 8l .. 8l+7 of a 32-byte digest (R140). -/
theorem loadLongHash_ofFn (b : Fin 32 → U8) : loadLongHash (List.ofFn b) =
    ⟨packBytes [b 0, b 1, b 2, b 3, b 4, b 5, b 6, b 7], packBytes [b 8, b 9, b 10, b 11, b 12, b 13, b 14, b 15],
      packBytes [b 16, b 17, b 18, b 19, b 20, b 21, b 22, b 23],
      packBytes [b 24, b 25, b 26, b 27, b 28, b 29, b 30, b 31]⟩ := rfl

/-- Word `l` takes the bytes of the registers DIGEST2l and DIGEST2l+1 (R141). -/
theorem loadLongHash_digestBytes (d : Digest) : loadLongHash (digestBytes d) =
    ⟨packBytes (registerBytes d.d0 ++ registerBytes d.d1), packBytes (registerBytes d.d2 ++ registerBytes d.d3),
      packBytes (registerBytes d.d4 ++ registerBytes d.d5), packBytes (registerBytes d.d6 ++ registerBytes d.d7)⟩ := rfl

/-- Settles O24: the bytes each word takes, then packing as concatenation, on bytes and on register pairs. -/
theorem loaderPacksBigEndian : Obligations.LoaderPacksBigEndian := by
  constructor
  · intro b
    rw [loadLongHash_ofFn]
    simp only [packBytes_eight]
  · intro d
    rw [loadLongHash_digestBytes]
    simp only [packBytes_registerBytes_append]

end Sys2Proof.Machine

namespace Sys2Proof.Machine

/-! The generator: one call in closed form (41_prng.md R160, R161). -/

/-- A rotation loses no bit: those below `64 - k` are the left shift's, the others wrap and are the right shift's. -/
theorem rotl64_getLsbD (x : U64) {k i : Nat} (hk : k < 64) (hi : i < 64) :
    (rotl64 x k).getLsbD ((i + k) % 64) = x.getLsbD i := by
  rw [rotl64, BitVec.getLsbD_or, BitVec.getLsbD_shiftLeft, BitVec.getLsbD_ushiftRight]
  by_cases hwrap : i + k < 64
  · have hpast : x.getLsbD (64 - k + (i + k)) = false := BitVec.getLsbD_of_ge x _ (by omega)
    simp [Nat.mod_eq_of_lt hwrap, hwrap, hpast]
  · have hpos : (i + k) % 64 = i + k - 64 := by omega
    have hlow : i + k - 64 < k := by omega
    have hback : 64 - k + (i + k - 64) = i := by omega
    simp [hpos, hlow, hback]

/-- The output is taken from the state before the call (R161). -/
theorem prngNext_output (g : Quad) : (prngNext g).1 = g.w0 + g.w3 := rfl

/-- Step 6: word 0 takes word 3 as step 4 left it. -/
theorem prngNext_w0 (g : Quad) : (prngNext g).2.w0 = g.w0 ^^^ g.w1 ^^^ g.w3 := by
  calc g.w0 ^^^ (g.w3 ^^^ g.w1)
      = g.w0 ^^^ (g.w1 ^^^ g.w3) := by rw [BitVec.xor_comm g.w3]
    _ = g.w0 ^^^ g.w1 ^^^ g.w3 := (BitVec.xor_assoc ..).symm

/-- Step 5: word 1 takes word 2 as step 3 left it. -/
theorem prngNext_w1 (g : Quad) : (prngNext g).2.w1 = g.w0 ^^^ g.w1 ^^^ g.w2 := by
  calc g.w1 ^^^ (g.w2 ^^^ g.w0)
      = g.w2 ^^^ g.w0 ^^^ g.w1 := BitVec.xor_comm ..
    _ = g.w2 ^^^ (g.w0 ^^^ g.w1) := BitVec.xor_assoc ..
    _ = g.w0 ^^^ g.w1 ^^^ g.w2 := BitVec.xor_comm ..

/-- Steps 3 and 7: the shifted word 1 is the one before the call. -/
theorem prngNext_w2 (g : Quad) : (prngNext g).2.w2 = g.w0 ^^^ g.w2 ^^^ (g.w1 <<< 17) :=
  congrArg (· ^^^ (g.w1 <<< 17)) (BitVec.xor_comm g.w2 g.w0)

/-- Steps 4 and 8. -/
theorem prngNext_w3 (g : Quad) : (prngNext g).2.w3 = rotl64 (g.w3 ^^^ g.w1) 45 := rfl

/-- Settles O25: the equation of each word, the last one read bit by bit through the rotation. -/
theorem generatorClosedForm : Obligations.GeneratorClosedForm := by
  intro g
  refine ⟨?output, prngNext_w0 g, prngNext_w1 g, prngNext_w2 g, ?rotated⟩
  case output => rw [prngNext_output, BitVec.toNat_add]
  case rotated =>
    intro i hi
    rw [prngNext_w3, rotl64_getLsbD _ (by omega) hi, BitVec.getLsbD_xor, Bool.xor_comm]

/-! The all-zero generator state and what an attempt makes of it (41_prng.md R163). -/

/-- S = [0, 0, 0, 0]. -/
abbrev zeroQuad : Quad := ⟨0#64, 0#64, 0#64, 0#64⟩

theorem prngNext_zeroQuad : prngNext zeroQuad = (0#64, zeroQuad) := by decide

theorem fillOutputs_zeroQuad (k : Nat) : fillOutputs zeroQuad k = (List.replicate k 0#64, zeroQuad) := by
  induction k with
  | zero => rfl
  | succ k ih => simp only [fillOutputs, prngNext_zeroQuad, ih, List.replicate_succ]

/-- The entries of a fill with zeros, and those past its end, read 0. -/
theorem filledBuffer_replicate_zero (k j : Nat) : filledBuffer (List.replicate k 0#64) j = 0#64 :=
  List.getElem?_getD_replicate_default_eq 0#64 k j

/-- Over an all-zero buffer the rounds keep the accumulator, whatever indices they read. -/
theorem bounceRounds_zeroQuad {read : Nat → U64} (hread : ∀ j, read j = 0#64) (n : U32) (k : Nat) (acc : U64) :
    bounceRounds read n k acc zeroQuad = (acc, zeroQuad) := by
  induction k generalizing acc with
  | zero => rfl
  | succ k ih => rw [bounceRounds, prngNext_zeroQuad, hread, BitVec.xor_zero, ih]

theorem bounce_zeroQuad {read : Nat → U64} (hread : ∀ j, read j = 0#64) (n : U32) :
    bounce read zeroQuad n = (0#64, zeroQuad) := by
  rw [bounce, bounceRounds_zeroQuad hread, hread]

/-- DERIVE gives the zero state exactly when every word of LH is SEED. -/
theorem deriveState_eq_zeroQuad_iff (lh : Quad) (seed : U64) :
    deriveState lh seed = zeroQuad ↔ lh = ⟨seed, seed, seed, seed⟩ := by
  obtain ⟨w0, w1, w2, w3⟩ := lh
  simp only [deriveState, Quad.mk.injEq, BitVec.xor_eq_zero_iff]

theorem attempt_of_deriveState_eq_zeroQuad {lh : Quad} {seed : U64} (h : deriveState lh seed = zeroQuad) (n : U32) :
    attempt lh seed n = (0#64, zeroQuad) := by
  simp only [attempt, h, fillOutputs_zeroQuad]
  exact bounce_zeroQuad (filledBuffer_replicate_zero n.toNat) n

/-- The first seed of a search, SEED_INIT * SEED_MULT (10_state.md R56), under the default parameters. -/
theorem seedChain_default_one : seedChain Config.Params.default 1 = 0x2FD89DDCD351E3DC#64 := by decide

/-- Settles O26: the fixed point, carried through the fill by induction on its length and through the rounds by induction
on their number. -/
theorem generatorZeroStateIsFixed : Obligations.GeneratorZeroStateIsFixed :=
  ⟨prngNext_zeroQuad, fillOutputs_zeroQuad, deriveState_eq_zeroQuad_iff,
    fun seed n => attempt_of_deriveState_eq_zeroQuad ((deriveState_eq_zeroQuad_iff _ seed).mpr rfl) n,
    seedChain_default_one⟩

end Sys2Proof.Machine

namespace Sys2Proof.Machine

/-! FILL_STEP as one function on states (42_buffer_fill.md R181). -/

/-- With no event left to perform, a step is the sequencer's turn (log entry 1). -/
theorem step_of_events_nil {s : State} (h : s.events = []) : step s = sequencerTurn s := by
  have hnext : nextEvent s = .seq := by simp [nextEvent, h]
  have htake : takeEvent s = s := by rw [takeEvent, h, List.tail_nil, ← h]
  rw [step_eq, hnext, htake, perform_seq]

/-- The state FILL_STEP leaves where entry FIDX exists: the output stored, then the index and the phase moved on. -/
def afterFillStep (s : State) : State :=
  fillAdvance (prngNext s.gen).2 (storeEntry s s.fidx.toNat (prngNext s.gen).1)

theorem exec_fillStep {s : State} (h : s.fidx.toNat < s.params.bufWordsMax.toNat) :
    exec .fillStep s = .next (afterFillStep s) := by
  rw [show exec .fillStep s = execFillStep s from rfl, execFillStep]
  exact memWrite_exists h

theorem bufValue_afterFillStep (s : State) (j : Nat) :
    bufValue (afterFillStep s) j = if j = s.fidx.toNat then (prngNext s.gen).1 else bufValue s j :=
  bufValue_storeEntry ..

theorem written_afterFillStep (s : State) (j : Nat) :
    written (afterFillStep s) j = (decide (j = s.fidx.toNat) || written s j) :=
  written_storeEntry ..

/-- Settles O16: the next state is `afterFillStep`, and its buffer is the one a single store leaves. -/
theorem fillStepWritesNextOutput : Obligations.FillStepWritesNextOutput := by
  intro s hexists
  refine ⟨afterFillStep s, _, exec_fillStep hexists, rfl, ?entry, fun j hj => ⟨?value, ?written⟩⟩
  case entry => rw [bufValue_afterFillStep, if_pos rfl, prngNext_output]
  case value => rw [bufValue_afterFillStep, if_neg hj]
  case written => rw [written_afterFillStep, decide_eq_false hj, Bool.false_or]

/-! What a run of stores at rising indices leaves in the buffer. -/

/-- `vs` stored front to back from entry `i` on. -/
def storeFrom (m : Memory) (i : Nat) : List U64 → Memory
  | [] => m
  | v :: vs => storeFrom (bufStore m i v) (i + 1) vs

/-- Entries below the first stored one, or past the last, are as before. -/
theorem bufLookup_storeFrom_outside {m : Memory} {i j : Nat} {vs : List U64} (h : j < i ∨ i + vs.length ≤ j) :
    bufLookup (storeFrom m i vs) j = bufLookup m j := by
  induction vs generalizing m i with
  | nil => rfl
  | cons v vs ih =>
    rw [List.length_cons] at h
    rw [storeFrom, ih (by omega), bufLookup_bufStore_other m i j v (by omega)]

/-- The `k`-th value stored is in the `k`-th entry from the first: the later stores are above it. -/
theorem bufLookup_storeFrom_inside {m : Memory} {i k : Nat} {vs : List U64} (h : k < vs.length) :
    bufLookup (storeFrom m i vs) (i + k) = vs[k]? := by
  induction vs generalizing m i k with
  | nil => exact absurd h (Nat.not_lt_zero k)
  | cons v vs ih =>
    rw [storeFrom]
    cases k with
    | zero =>
      rw [bufLookup_storeFrom_outside (.inl (by omega)), Nat.add_zero, bufLookup_bufStore_same,
        List.getElem?_cons_zero]
    | succ k =>
      rw [show i + (k + 1) = i + 1 + k by omega, ih (Nat.lt_of_succ_lt_succ h), List.getElem?_cons_succ]

/-! A whole fill: FILL_STEPs until the last entry (42_buffer_fill.md R180, R182). -/

theorem length_fillOutputs (g : Quad) (n : Nat) : (fillOutputs g n).1.length = n := by
  induction n generalizing g with
  | zero => rfl
  | succ n ih => rw [fillOutputs, List.length_cons, ih]

/-- The state `n` FILL_STEPs leave when the last of them writes entry N_L - 1. -/
def afterFillRun (s : State) (n : Nat) : State :=
  { s with
    gen := (fillOutputs s.gen n).2
    buf := storeFrom s.buf s.fidx.toNat (fillOutputs s.gen n).1
    fidx := s.nL
    phase := phBinit }

theorem step_fill {s : State} (hevents : s.events = []) (hphase : s.phase = phFill)
    (hexists : s.fidx.toNat < s.params.bufWordsMax.toNat) : step s = .next (afterFillStep s) := by
  rw [step_of_events_nil hevents, sequencerTurn_eq, nextMicroOp_fill hphase, exec_fillStep hexists]

/-- The FILL_STEP of entry N_L - 1 is a fill of one entry. -/
theorem afterFillStep_last {s : State} (h : s.fidx + 1#32 = s.nL) : afterFillStep s = afterFillRun s 1 := by
  simp only [afterFillStep, fillAdvance, storeEntry, h, phaseAfterFill_end]
  rfl

/-- Before the last entry FILL_STEP stays in FILL. -/
theorem afterFillStep_phase_of_ne {s : State} (h : s.fidx + 1#32 ≠ s.nL) : (afterFillStep s).phase = s.phase :=
  phaseAfterFill_of_ne _ h

/-- One FILL_STEP and then a fill of `n` entries is a fill of `n + 1`. -/
theorem afterFillRun_afterFillStep {s : State} (h : (s.fidx + 1#32).toNat = s.fidx.toNat + 1) (n : Nat) :
    afterFillRun (afterFillStep s) n = afterFillRun s (n + 1) := by
  simp only [afterFillRun, afterFillStep, fillAdvance, storeEntry, fillOutputs, storeFrom, h]

/-- From anywhere in FILL, the micro-steps for the entries left write them all and reach BINIT. -/
theorem runSteps_fill {s : State} {n : Nat} (hevents : s.events = []) (hphase : s.phase = phFill)
    (hleft : s.fidx.toNat + (n + 1) = s.nL.toNat) (hmax : s.nL.toNat ≤ s.params.bufWordsMax.toNat) :
    runSteps (n + 1) s = .next (afterFillRun s (n + 1)) := by
  induction n generalizing s with
  | zero =>
    rw [runSteps_succ_of_next (step_fill hevents hphase (by omega)), runSteps_zero, afterFillStep_last (by bv_omega)]
  | succ n ih =>
    have hidx : (s.fidx + 1#32).toNat = s.fidx.toNat + 1 := by bv_omega
    have hstays : (afterFillStep s).phase = phFill := (afterFillStep_phase_of_ne (by bv_omega)).trans hphase
    have hleft' : (s.fidx + 1#32).toNat + (n + 1) = s.nL.toNat := by omega
    calc runSteps (n + 1 + 1) s
        = runSteps (n + 1) (afterFillStep s) := runSteps_succ_of_next (step_fill hevents hphase (by omega)) _
      _ = .next (afterFillRun (afterFillStep s) (n + 1)) := ih hevents hstays hleft' hmax
      _ = .next (afterFillRun s (n + 1 + 1)) := by rw [afterFillRun_afterFillStep hidx]

/-- The fill as a whole, from its first entry: N_L micro-steps. -/
theorem runSteps_whole_fill {s : State} (hinv : Inv s) (hevents : s.events = []) (hphase : s.phase = phFill)
    (hfirst : s.fidx = 0#32) : runSteps s.nL.toNat s = .next (afterFillRun s s.nL.toNat) := by
  obtain ⟨hpos, hmax⟩ := hinv.length (by rw [hphase]; decide)
  obtain ⟨n, hn⟩ := Nat.exists_eq_add_of_le' hpos
  have hleft : s.fidx.toNat + (n + 1) = s.nL.toNat := by rw [hfirst, hn]; exact Nat.zero_add _
  rw [hn, runSteps_fill hevents hphase hleft hmax]

/-- Entry FIDX + `k` holds output number `k + 1` of the fill. -/
theorem bufValue_afterFillRun_inside (s : State) {n k : Nat} (h : k < n) :
    (fillOutputs s.gen n).1[k]? = some (bufValue (afterFillRun s n) (s.fidx.toNat + k)) := by
  have hlen : k < (fillOutputs s.gen n).1.length := by rwa [length_fillOutputs]
  have hlookup : bufLookup (afterFillRun s n).buf (s.fidx.toNat + k) = (fillOutputs s.gen n).1[k]? :=
    bufLookup_storeFrom_inside hlen
  rw [bufValue, hlookup, List.getElem?_eq_getElem hlen, Option.getD_some]

/-- Entries outside the fill keep what they held. -/
theorem bufValue_afterFillRun_outside (s : State) {n j : Nat} (h : j < s.fidx.toNat ∨ s.fidx.toNat + n ≤ j) :
    bufValue (afterFillRun s n) j = bufValue s j := by
  have hlookup : bufLookup (afterFillRun s n).buf j = bufLookup s.buf j :=
    bufLookup_storeFrom_outside (by rwa [length_fillOutputs])
  rw [bufValue, hlookup]
  rfl

/-- Settles O55: `runSteps_fill`, by induction on the entries left, gives the state after the fill, and the buffer in it
is read entry by entry. -/
theorem fillRunRefinesFill : Obligations.FillRunRefinesFill := by
  intro s hinv hevents hphase hfirst
  have hzero : s.fidx.toNat = 0 := by rw [hfirst]; rfl
  have hrun := runSteps_whole_fill hinv hevents hphase hfirst
  refine ⟨afterFillRun s s.nL.toNat, hrun, rfl, rfl, rfl, ?inside, ?outside⟩
  case inside =>
    intro j hj
    simpa only [hzero, Nat.zero_add] using bufValue_afterFillRun_inside s hj
  case outside =>
    intro j hj
    exact bufValue_afterFillRun_outside s (.inr (by rwa [hzero, Nat.zero_add]))

end Sys2Proof.Machine

namespace Sys2Proof.Machine

/-! The bounce index in arithmetic (43_bounce.md R200, R201). -/

/-- INDEX_MASK keeps the low 31 bits. -/
theorem and_indexMask_toNat (r : U64) : (r &&& indexMask).toNat = r.toNat % 2 ^ 31 := by
  rw [BitVec.toNat_and, show indexMask.toNat = 2 ^ 31 - 1 from rfl, Nat.and_two_pow_sub_one_eq_mod]

/-- Mask, then remainder: the result fits the 32 bits of the index. -/
theorem bounceIndex_toNat (r : U64) (n : U32) : (bounceIndex r n).toNat = r.toNat % 2 ^ 31 % n.toNat := by
  have hfits : r.toNat % 2 ^ 31 % n.toNat < 2 ^ 32 :=
    (Nat.mod_le _ _).trans_lt ((Nat.mod_lt _ (by decide)).trans (by decide))
  rw [bounceIndex, BitVec.toNat_setWidth, BitVec.toNat_umod, and_indexMask_toNat,
    BitVec.toNat_setWidth_of_le (by decide), Nat.mod_eq_of_lt hfits]

theorem bounceIndex_toNat_le_mask (r : U64) (n : U32) : (bounceIndex r n).toNat ≤ 0x7FFFFFFF := by
  rw [bounceIndex_toNat]
  exact (Nat.mod_le _ _).trans (Nat.le_of_lt_succ (Nat.mod_lt _ (by decide)))

/-- Outputs that agree in their low 31 bits give the same index. -/
theorem bounceIndex_congr {r r' : U64} (h : r'.extractLsb' 0 31 = r.extractLsb' 0 31) (n : U32) :
    bounceIndex r' n = bounceIndex r n := by
  have hlow : r'.toNat % 2 ^ 31 = r.toNat % 2 ^ 31 := by
    simpa only [BitVec.extractLsb'_toNat, Nat.shiftRight_zero] using congrArg BitVec.toNat h
  apply BitVec.eq_of_toNat_eq
  rw [bounceIndex_toNat, bounceIndex_toNat, hlow]

/-- Settles O27: the value is `bounceIndex_toNat`, the two bounds are the remainder's and the mask's. -/
theorem bounceIndexMasksThenReduces : Obligations.BounceIndexMasksThenReduces := by
  intro r n hn
  have hrange : (bounceIndex r n).toNat ≤ n.toNat - 1 := Nat.le_sub_one_of_lt (bounceIndex_toNat_lt r hn)
  exact ⟨bounceIndex_toNat r n, le_min hrange (bounceIndex_toNat_le_mask r n), fun _ h => bounceIndex_congr h n⟩

/-! BOUNCE_INIT and BOUNCE_STEP as functions on states (43_bounce.md R205, R206). -/

/-- The state BOUNCE_INIT leaves where entry 0 exists. -/
def afterBounceInit (s : State) : State := { s with acc := bufValue s 0, round := 0#11, phase := phBounce }

theorem exec_bounceInit {s : State} (h : 0 < s.params.bufWordsMax.toNat) :
    exec .bounceInit s = .next (afterBounceInit s) := by
  rw [show exec .bounceInit s = execBounceInit s from rfl, execBounceInit]
  exact memRead_exists h

/-- RESULT_HI and RESULT_LO are the two halves of ACC (10_state.md R52). -/
theorem regRead_result (s : State) : regRead s .resultHi ++ regRead s .resultLo = s.acc := by
  calc s.acc.extractLsb' 32 32 ++ s.acc.extractLsb' 0 32
      = s.acc.extractLsb' 0 64 := BitVec.extractLsb'_append_extractLsb'_eq_extractLsb' (by rfl)
    _ = s.acc := BitVec.extractLsb'_eq_self

/-- Settles O17: the next state is `afterBounceInit`, whose ACC is BUF[0]. -/
theorem bounceInitSeedsAcc : Obligations.BounceInitSeedsAcc := fun s hexists =>
  ⟨afterBounceInit s, exec_bounceInit hexists, rfl, regRead_result (afterBounceInit s)⟩

/-- The state BOUNCE_STEP leaves where N_L is not 0 and the entry at the bounce index exists. -/
def afterBounceStep (s : State) : State :=
  bounceFold (prngNext s.gen).2 (bufValue s (bounceIndex (prngNext s.gen).1 s.nL).toNat) s

theorem exec_bounceStep {s : State} (hpos : 1 ≤ s.nL.toNat)
    (hexists : (bounceIndex (prngNext s.gen).1 s.nL).toNat < s.params.bufWordsMax.toNat) :
    exec .bounceStep s = .next (afterBounceStep s) := by
  have hne : s.nL ≠ 0#32 := by bv_omega
  rw [show exec .bounceStep s = execBounceStep s from rfl, execBounceStep, if_neg hne]
  exact memRead_exists hexists

/-- Settles O18: the next state is `afterBounceStep`, with the index and the output in closed form. -/
theorem bounceStepFoldsEntry : Obligations.BounceStepFoldsEntry := by
  intro s hpos hexists
  have hindex : (bounceIndex (prngNext s.gen).1 s.nL).toNat =
      (s.gen.w0 + s.gen.w3).toNat % 2 ^ 31 % s.nL.toNat := by
    rw [prngNext_output, bounceIndex_toNat]
  rw [exec_bounceStep hpos (hindex ▸ hexists), afterBounceStep, hindex]
  rfl

/-! A whole accumulation: BOUNCE_STEPs until the 1024th round (43_bounce.md R207). -/

/-- The state `k` BOUNCE_STEPs leave when the last of them counts round 1024. -/
def afterBounceRun (s : State) (k : Nat) : State :=
  { s with
    acc := (bounceRounds (bufValue s) s.nL k s.acc s.gen).1
    gen := (bounceRounds (bufValue s) s.nL k s.acc s.gen).2
    round := rounds
    phase := phTest }

/-- No BOUNCE_STEP touches the buffer. -/
theorem bufValue_afterBounceStep (s : State) : bufValue (afterBounceStep s) = bufValue s := rfl

/-- A length within the buffer keeps every bounce index within it. -/
theorem step_bounce {s : State} (hevents : s.events = []) (hphase : s.phase = phBounce) (hpos : 1 ≤ s.nL.toNat)
    (hmax : s.nL.toNat ≤ s.params.bufWordsMax.toNat) : step s = .next (afterBounceStep s) := by
  rw [step_of_events_nil hevents, sequencerTurn_eq, nextMicroOp_bounce hphase,
    exec_bounceStep hpos ((bounceIndex_toNat_lt _ hpos).trans_le hmax)]

/-- The BOUNCE_STEP of the 1024th round is an accumulation of one round. -/
theorem afterBounceStep_last {s : State} (h : s.round + 1#11 = rounds) : afterBounceStep s = afterBounceRun s 1 := by
  rw [afterBounceStep, bounceFold, h, phaseAfterRound_end]
  rfl

/-- Before the 1024th round BOUNCE_STEP stays in BOUNCE. -/
theorem afterBounceStep_phase_of_ne {s : State} (h : s.round + 1#11 ≠ rounds) : (afterBounceStep s).phase = s.phase :=
  phaseAfterRound_of_ne _ h

/-- One BOUNCE_STEP and then `k` rounds are `k + 1` rounds. -/
theorem afterBounceRun_afterBounceStep (s : State) (k : Nat) :
    afterBounceRun (afterBounceStep s) k = afterBounceRun s (k + 1) := by
  rw [afterBounceRun, afterBounceRun, bufValue_afterBounceStep]
  rfl

/-- From anywhere in BOUNCE, the micro-steps for the rounds left do them all and reach TEST. -/
theorem runSteps_bounce {s : State} {k : Nat} (hevents : s.events = []) (hphase : s.phase = phBounce)
    (hpos : 1 ≤ s.nL.toNat) (hmax : s.nL.toNat ≤ s.params.bufWordsMax.toNat)
    (hleft : s.round.toNat + (k + 1) = 1024) : runSteps (k + 1) s = .next (afterBounceRun s (k + 1)) := by
  induction k generalizing s with
  | zero =>
    rw [runSteps_succ_of_next (step_bounce hevents hphase hpos hmax), runSteps_zero, afterBounceStep_last (by bv_omega)]
  | succ k ih =>
    have hcount : (s.round + 1#11).toNat = s.round.toNat + 1 := by bv_omega
    have hstays : (afterBounceStep s).phase = phBounce := (afterBounceStep_phase_of_ne (by bv_omega)).trans hphase
    have hleft' : (s.round + 1#11).toNat + (k + 1) = 1024 := by omega
    calc runSteps (k + 1 + 1) s
        = runSteps (k + 1) (afterBounceStep s) := runSteps_succ_of_next (step_bounce hevents hphase hpos hmax) _
      _ = .next (afterBounceRun (afterBounceStep s) (k + 1)) := ih hevents hstays hpos hmax hleft'
      _ = .next (afterBounceRun s (k + 1 + 1)) := by rw [afterBounceRun_afterBounceStep]

theorem step_binit {s : State} (hevents : s.events = []) (hphase : s.phase = phBinit)
    (hexists : 0 < s.params.bufWordsMax.toNat) : step s = .next (afterBounceInit s) := by
  rw [step_of_events_nil hevents, sequencerTurn_eq, nextMicroOp_binit hphase, exec_bounceInit hexists]

/-- The accumulation as a whole: BOUNCE_INIT and 1024 BOUNCE_STEPs. -/
theorem runSteps_whole_bounce {s : State} (hinv : Inv s) (hevents : s.events = []) (hphase : s.phase = phBinit) :
    runSteps 1025 s = .next (afterBounceRun (afterBounceInit s) 1024) := by
  obtain ⟨hpos, hmax⟩ := hinv.length (by rw [hphase]; decide)
  calc runSteps (1024 + 1) s
      = runSteps 1024 (afterBounceInit s) := runSteps_succ_of_next (step_binit hevents hphase (by omega)) _
    _ = .next (afterBounceRun (afterBounceInit s) 1024) :=
      runSteps_bounce (s := afterBounceInit s) (k := 1023) hevents rfl hpos hmax rfl

/-! Stated for every `k`: an equation of 1024 rounds would be checked by running them. -/

/-- BOUNCE_INIT and then `k` rounds compute the rounds of Bounce from BUF[0]. -/
theorem afterBounceRun_afterBounceInit (s : State) (k : Nat) :
    ((afterBounceRun (afterBounceInit s) k).acc, (afterBounceRun (afterBounceInit s) k).gen) =
      bounceRounds (bufValue s) s.nL k (bufValue s 0) s.gen := rfl

theorem afterBounceRun_buf (s : State) (k : Nat) : (afterBounceRun s k).buf = s.buf := rfl

/-- Settles O56: `runSteps_bounce`, by induction on the rounds left, gives ACC and S as `bounceRounds` from BUF[0]. -/
theorem bounceRunRefinesBounce : Obligations.BounceRunRefinesBounce := by
  intro s hinv hevents hphase
  refine ⟨_, runSteps_whole_bounce hinv hevents hphase, rfl, rfl, ?result, afterBounceRun_buf _ _⟩
  case result => rw [bounce, afterBounceRun_afterBounceInit]

end Sys2Proof.Machine

namespace Sys2Proof.Machine

/-! The leading-zero count and the highest set bit (44_leading_zero.md R230). -/

theorem highestSetBit_succ_of_set {x : U64} {k : Nat} (h : x.getLsbD k = true) :
    highestSetBit x (k + 1) = some k := if_pos h

theorem highestSetBit_succ_of_clear {x : U64} {k : Nat} (h : x.getLsbD k = false) :
    highestSetBit x (k + 1) = highestSetBit x k := if_neg (by simp [h])

/-- Either the low `k` bits are all clear, or the search stops at the highest one that is set. -/
theorem highestSetBit_cases (x : U64) (k : Nat) :
    (highestSetBit x k = none ∧ ∀ j < k, x.getLsbD j = false) ∨
    ∃ i < k, highestSetBit x k = some i ∧ x.getLsbD i = true ∧ ∀ j, i < j → j < k → x.getLsbD j = false := by
  induction k with
  | zero => exact .inl ⟨rfl, fun j hj => absurd hj j.not_lt_zero⟩
  | succ k ih =>
    cases hk : x.getLsbD k with
    | true => exact .inr ⟨k, k.lt_succ_self, highestSetBit_succ_of_set hk, hk, by omega⟩
    | false =>
      rw [highestSetBit_succ_of_clear hk]
      have extend {j : Nat} (hj : j < k + 1) (below : j < k → x.getLsbD j = false) : x.getLsbD j = false := by
        rcases Nat.lt_succ_iff_lt_or_eq.mp hj with hlt | rfl
        · exact below hlt
        · exact hk
      rcases ih with ⟨hnone, hclear⟩ | ⟨i, hi, hsome, hset, habove⟩
      · exact .inl ⟨hnone, fun j hj => extend hj (hclear j)⟩
      · exact .inr ⟨i, Nat.lt_succ_of_lt hi, hsome, hset, fun j hij hj => extend hj (habove j hij)⟩

theorem lzc64_of_highestSetBit_none {x : U64} (h : highestSetBit x 64 = none) : lzc64 x = 64 := by
  rw [lzc64, h]

theorem lzc64_of_highestSetBit_some {x : U64} {i : Nat} (h : highestSetBit x 64 = some i) : lzc64 x = 63 - i := by
  rw [lzc64, h]

/-- The count in closed form: 64 for the zero word, else 63 minus the index of the highest set bit. -/
theorem lzc64_cases (x : U64) :
    (x = 0#64 ∧ lzc64 x = 64) ∨
    ∃ i < 64, x.getLsbD i = true ∧ (∀ j, i < j → x.getLsbD j = false) ∧ lzc64 x = 63 - i := by
  rcases highestSetBit_cases x 64 with ⟨hnone, hclear⟩ | ⟨i, hi, hsome, hset, habove⟩
  · refine .inl ⟨BitVec.eq_of_getLsbD_eq fun j hj => ?_, lzc64_of_highestSetBit_none hnone⟩
    rw [hclear j hj, BitVec.getLsbD_zero]
  · refine .inr ⟨i, hi, hset, fun j hij => ?_, lzc64_of_highestSetBit_some hsome⟩
    rcases Nat.lt_or_ge j 64 with hj | hj
    · exact habove j hij hj
    · exact BitVec.getLsbD_of_ge x j hj

/-- Settles O29: the two cases of the count, of which a word other than 0 leaves the second. -/
theorem leadingZeroCountIsHighestBit : Obligations.LeadingZeroCountIsHighestBit :=
  ⟨lzc64_of_highestSetBit_none (by decide), fun x hx => (lzc64_cases x).resolve_left fun h => hx h.1⟩

/-! Passing a difficulty (44_leading_zero.md R231, R233). -/

theorem lzc64_le (x : U64) : lzc64 x ≤ 64 := by
  rcases lzc64_cases x with ⟨-, hcount⟩ | ⟨i, -, -, -, hcount⟩ <;> omega

/-- At least `n` leading zeros means that the top `n` bits are zero. -/
theorem le_lzc64_iff {x : U64} {n : Nat} (hn : n ≤ 64) :
    n ≤ lzc64 x ↔ ∀ i, 64 - n ≤ i → i ≤ 63 → x.getLsbD i = false := by
  rcases lzc64_cases x with ⟨rfl, hcount⟩ | ⟨k, hk, hset, habove, hcount⟩
  · simp [hcount, hn]
  · constructor
    · exact fun hle i hi _ => habove i (by omega)
    · intro htop
      have hbelow : k < 64 - n := by
        by_contra hge
        simp [htop k (by omega) (by omega)] at hset
      omega

theorem passes_iff {acc : U64} {d : U8} : passes acc d = true ↔ d.toNat ≤ lzc64 acc := decide_eq_true_iff

theorem passes_eq_false_iff {acc : U64} {d : U8} : passes acc d = false ↔ lzc64 acc < d.toNat :=
  decide_eq_false_iff_not.trans Nat.not_le

/-- A result that passes a difficulty passes every smaller one (R233). -/
theorem passes_of_le {acc : U64} {d d' : U8} (h : passes acc d = true) (hle : d'.toNat ≤ d.toNat) :
    passes acc d' = true := passes_iff.mpr (hle.trans (passes_iff.mp h))

/-- Settles O31: passing compares the count, the count speaks of the top bits, and it never exceeds 64. -/
theorem passMeansTopBitsZero : Obligations.PassMeansTopBitsZero := fun acc _ =>
  ⟨passes_iff, fun hzero => passes_iff.mpr (hzero ▸ Nat.zero_le _),
    fun _ hmax => passes_iff.trans (le_lzc64_iff hmax),
    fun hmin => passes_eq_false_iff.mpr (Nat.lt_of_le_of_lt (lzc64_le acc) hmin),
    fun _ => passes_of_le⟩

end Sys2Proof.Machine

namespace Sys2Proof.Machine

/-! The micro-operations of the search as functions on states (45_search_fsm.md R260 to R263). -/

/-- The state SEED_ADVANCE leaves. -/
def afterSeedAdvance (s : State) : State := { s with seed := s.seed * s.params.seedMult, phase := phDerive }

theorem exec_seedAdvance (s : State) : exec .seedAdvance s = .next (afterSeedAdvance s) := rfl

theorem step_seed {s : State} (hevents : s.events = []) (hphase : s.phase = phSeed) :
    step s = .next (afterSeedAdvance s) := by
  rw [step_of_events_nil hevents, sequencerTurn_eq, nextMicroOp_seed hphase, exec_seedAdvance]

/-- The state STATE_DERIVE leaves. -/
def afterStateDerive (s : State) : State := { s with gen := deriveState s.lh s.seed, fidx := 0#32, phase := phFill }

theorem exec_stateDerive (s : State) : exec .stateDerive s = .next (afterStateDerive s) := rfl

theorem step_derive {s : State} (hevents : s.events = []) (hphase : s.phase = phDerive) :
    step s = .next (afterStateDerive s) := by
  rw [step_of_events_nil hevents, sequencerTurn_eq, nextMicroOp_derive hphase, exec_stateDerive]

/-- The state DIFF_TEST leaves. -/
def afterDiffTest (s : State) : State := { s with phase := phaseAfterTest s.acc s.diffL }

theorem exec_diffTest (s : State) : exec .diffTest s = .next (afterDiffTest s) := rfl

theorem step_test {s : State} (hevents : s.events = []) (hphase : s.phase = phTest) :
    step s = .next (afterDiffTest s) := by
  rw [step_of_events_nil hevents, sequencerTurn_eq, nextMicroOp_test hphase, exec_diffTest]

@[simp] theorem afterDiffTest_acc (s : State) : (afterDiffTest s).acc = s.acc := rfl
@[simp] theorem afterDiffTest_seed (s : State) : (afterDiffTest s).seed = s.seed := rfl
@[simp] theorem afterDiffTest_nonce (s : State) : (afterDiffTest s).nonce = s.nonce := rfl
@[simp] theorem afterDiffTest_phase (s : State) : (afterDiffTest s).phase = phaseAfterTest s.acc s.diffL := rfl

theorem phaseAfterTest_of_passes {acc : U64} {d : U8} (h : passes acc d = true) : phaseAfterTest acc d = phFound :=
  if_pos h

theorem phaseAfterTest_of_fails {acc : U64} {d : U8} (h : passes acc d = false) : phaseAfterTest acc d = phIncr :=
  if_neg (by simp [h])

/-- The state NONCE_INC leaves. -/
def afterNonceInc (s : State) : State := { s with nonce := s.nonce + 1#32, phase := phSeed }

theorem exec_nonceInc (s : State) : exec .nonceInc s = .next (afterNonceInc s) := rfl

theorem step_incr {s : State} (hevents : s.events = []) (hphase : s.phase = phIncr) :
    step s = .next (afterNonceInc s) := by
  rw [step_of_events_nil hevents, sequencerTurn_eq, nextMicroOp_incr hphase, exec_nonceInc]

/-! One attempt from SEED: seed, derivation, fill and accumulation are `attempt` (45_search_fsm.md R264). -/

/-- The start of FILL in the attempt that begins at `s`. -/
def atFill (s : State) : State := afterStateDerive (afterSeedAdvance s)

/-- The end of the fill in the attempt that begins at `s`. -/
def atBinit (s : State) : State := afterFillRun (atFill s) s.nL.toNat

/-- The accumulator and the generator state of the attempt that begins at `s`. Irreducible, because a comparison of
states must not run its 1024 rounds. -/
@[irreducible] def attemptFrom (s : State) : U64 × Quad := attempt s.lh (s.seed * s.params.seedMult) s.nL

theorem attemptFrom_eq (s : State) : attemptFrom s = attempt s.lh (s.seed * s.params.seedMult) s.nL := by
  unfold attemptFrom
  rfl

/-- The state at TEST of the attempt that begins at `s`: the seed advanced, ACC and S those of `attempt`. -/
def afterAttempt (s : State) : State :=
  { s with
    seed := s.seed * s.params.seedMult
    acc := (attemptFrom s).1
    gen := (attemptFrom s).2
    buf := (atBinit s).buf
    fidx := s.nL
    round := rounds
    phase := phTest }

@[simp] theorem afterAttempt_acc (s : State) : (afterAttempt s).acc = (attemptFrom s).1 := rfl
@[simp] theorem afterAttempt_seed (s : State) : (afterAttempt s).seed = s.seed * s.params.seedMult := rfl
@[simp] theorem afterAttempt_nonce (s : State) : (afterAttempt s).nonce = s.nonce := rfl
@[simp] theorem afterAttempt_diffL (s : State) : (afterAttempt s).diffL = s.diffL := rfl

/-- The rounds read below `n` only, so buffers that agree there give the same result (43_bounce.md R201). -/
theorem bounceRounds_congr {read read' : Nat → U64} {n : U32} (hpos : 0 < n.toNat)
    (h : ∀ j, j < n.toNat → read j = read' j) (k : Nat) (acc : U64) (g : Quad) :
    bounceRounds read n k acc g = bounceRounds read' n k acc g := by
  induction k generalizing acc g with
  | zero => rfl
  | succ k ih => rw [bounceRounds, bounceRounds, h _ (bounceIndex_toNat_lt _ hpos), ih]

theorem bounce_congr {read read' : Nat → U64} {n : U32} (hpos : 0 < n.toNat)
    (h : ∀ j, j < n.toNat → read j = read' j) (g : Quad) : bounce read g n = bounce read' g n := by
  rw [bounce, bounce, h 0 hpos, bounceRounds_congr hpos h]

/-- A fill from entry 0 leaves the buffer that `attempt` bounces over. -/
theorem filledBuffer_fillOutputs {s : State} (hfirst : s.fidx.toNat = 0) {n j : Nat} (hj : j < n) :
    filledBuffer (fillOutputs s.gen n).1 j = bufValue (afterFillRun s n) j := by
  have hentry := bufValue_afterFillRun_inside s hj
  rw [hfirst, Nat.zero_add] at hentry
  rw [filledBuffer, List.getD_eq_getElem?_getD, hentry, Option.getD_some]

/-- Attempt is Bounce over the buffer and the generator state that the fill leaves. -/
theorem attemptFrom_eq_bounce {s : State} (hpos : 1 ≤ s.nL.toNat) :
    attemptFrom s = bounce (bufValue (atBinit s)) (atBinit s).gen s.nL := by
  rw [attemptFrom_eq, attempt]
  exact bounce_congr hpos (fun _ hj => filledBuffer_fillOutputs (s := atFill s) rfl hj) _

theorem afterBounceRun_atBinit {s : State} (hpos : 1 ≤ s.nL.toNat) :
    afterBounceRun (afterBounceInit (atBinit s)) 1024 = afterAttempt s := by
  rw [afterAttempt, attemptFrom_eq_bounce hpos, bounce]
  -- As an equation of 1024 rounds it would be checked by running them.
  generalize 1024 = k
  rfl

/-- From SEED, N_L + 1027 micro-steps are one attempt: two to derive the state, N_L to fill, 1025 to accumulate. -/
theorem runSteps_attempt {s : State} (hevents : s.events = []) (hphase : s.phase = phSeed)
    (hpos : 1 ≤ s.nL.toNat) (hmax : s.nL.toNat ≤ s.params.bufWordsMax.toNat) :
    runSteps (s.nL.toNat + 1027) s = .next (afterAttempt s) := by
  have hseed : step s = .next (afterSeedAdvance s) := step_seed hevents hphase
  have hderive : step (afterSeedAdvance s) = .next (atFill s) := step_derive hevents rfl
  have hfill : runSteps s.nL.toNat (atFill s) = .next (atBinit s) := by
    obtain ⟨n, hn⟩ := Nat.exists_eq_add_of_le' hpos
    rw [atBinit, hn]
    exact runSteps_fill hevents rfl ((Nat.zero_add _).trans hn.symm) hmax
  have hbinit : step (atBinit s) = .next (afterBounceInit (atBinit s)) := step_binit hevents rfl (hpos.trans hmax)
  calc runSteps (s.nL.toNat + 1027) s
      = runSteps (s.nL.toNat + 1026) (afterSeedAdvance s) := runSteps_succ_of_next hseed _
    _ = runSteps (s.nL.toNat + 1025) (atFill s) := runSteps_succ_of_next hderive _
    _ = runSteps 1025 (atBinit s) := runSteps_add hfill _
    _ = runSteps 1024 (afterBounceInit (atBinit s)) := runSteps_succ_of_next hbinit _
    _ = .next (afterBounceRun (afterBounceInit (atBinit s)) 1024) :=
      runSteps_bounce (s := afterBounceInit (atBinit s)) (k := 1023) hevents rfl hpos hmax rfl
    _ = .next (afterAttempt s) := by rw [afterBounceRun_atBinit hpos]

/-- From SEED, N_L + 1028 micro-steps are one attempt and its test. -/
theorem runSteps_attempt_test {s : State} (hevents : s.events = []) (hphase : s.phase = phSeed)
    (hpos : 1 ≤ s.nL.toNat) (hmax : s.nL.toNat ≤ s.params.bufWordsMax.toNat) :
    runSteps (s.nL.toNat + 1028) s = .next (afterDiffTest (afterAttempt s)) := by
  have htest : step (afterAttempt s) = .next (afterDiffTest (afterAttempt s)) := step_test hevents rfl
  calc runSteps (s.nL.toNat + 1027 + 1) s
      = runSteps 1 (afterAttempt s) := runSteps_add (runSteps_attempt hevents hphase hpos hmax) 1
    _ = .next (afterDiffTest (afterAttempt s)) := runSteps_succ_of_next htest 0

/-! A search: failing attempts one after the other, then a passing one (45_search_fsm.md R264). -/

/-- `s` is about to make attempt number `i + 1` of the search whose first attempt begins at `s₀`. -/
structure StartsAttempt (s₀ : State) (i : Nat) (s : State) : Prop where
  phase : s.phase = phSeed
  events : s.events = []
  params : s.params = s₀.params
  lh : s.lh = s₀.lh
  nL : s.nL = s₀.nL
  diffL : s.diffL = s₀.diffL
  seed : s.seed = seedChain s₀.params i
  nonce : s.nonce = BitVec.ofNat 32 i

section
variable {s₀ s : State} {i : Nat}

theorem StartsAttempt.seed_next (h : StartsAttempt s₀ i s) :
    s.seed * s.params.seedMult = seedChain s₀.params (i + 1) := by
  rw [h.seed, h.params, seedChain]

theorem StartsAttempt.acc_afterAttempt (h : StartsAttempt s₀ i s) :
    (afterAttempt s).acc = searchAcc s₀.params s₀.lh s₀.nL i := by
  rw [afterAttempt_acc, attemptFrom_eq, searchAcc, h.seed_next, h.lh, h.nL]

theorem StartsAttempt.phase_test (h : StartsAttempt s₀ i s) :
    (afterDiffTest (afterAttempt s)).phase =
      phaseAfterTest (searchAcc s₀.params s₀.lh s₀.nL i) s₀.diffL := by
  rw [afterDiffTest_phase, h.acc_afterAttempt, afterAttempt_diffL, h.diffL]

theorem StartsAttempt.runSteps_test (h : StartsAttempt s₀ i s) (hpos : 1 ≤ s₀.nL.toNat)
    (hmax : s₀.nL.toNat ≤ s₀.params.bufWordsMax.toNat) :
    runSteps (s₀.nL.toNat + 1028) s = .next (afterDiffTest (afterAttempt s)) := by
  rw [← h.nL]
  exact runSteps_attempt_test h.events h.phase (by rwa [h.nL]) (by rwa [h.nL, h.params])

/-- A failing attempt ends, by way of INCR, at the start of the next one. -/
theorem StartsAttempt.runSteps_fail (h : StartsAttempt s₀ i s) (hpos : 1 ≤ s₀.nL.toNat)
    (hmax : s₀.nL.toNat ≤ s₀.params.bufWordsMax.toNat)
    (hfail : passes (searchAcc s₀.params s₀.lh s₀.nL i) s₀.diffL = false) :
    ∃ t, runSteps (s₀.nL.toNat + 1029) s = .next t ∧ StartsAttempt s₀ (i + 1) t := by
  have hphase : (afterDiffTest (afterAttempt s)).phase = phIncr :=
    h.phase_test.trans (phaseAfterTest_of_fails hfail)
  have hincr : step (afterDiffTest (afterAttempt s)) = .next (afterNonceInc (afterDiffTest (afterAttempt s))) :=
    step_incr h.events hphase
  refine ⟨afterNonceInc (afterDiffTest (afterAttempt s)), ?run, rfl, h.events, h.params, h.lh, h.nL, h.diffL,
    h.seed_next, ?nonce⟩
  case run =>
    calc runSteps (s₀.nL.toNat + 1028 + 1) s
        = runSteps 1 (afterDiffTest (afterAttempt s)) := runSteps_add (h.runSteps_test hpos hmax) 1
      _ = .next (afterNonceInc (afterDiffTest (afterAttempt s))) := runSteps_succ_of_next hincr 0
  case nonce =>
    calc s.nonce + 1#32
        = BitVec.ofNat 32 i + BitVec.ofNat 32 1 := by rw [h.nonce]
      _ = BitVec.ofNat 32 (i + 1) := BitVec.ofNat_add_ofNat i 1

end

/-- Failing attempts lead from the first attempt of a search to the attempt after them. -/
theorem runSteps_failing_attempts {s₀ : State} (hstart : StartsAttempt s₀ 0 s₀) (hpos : 1 ≤ s₀.nL.toNat)
    (hmax : s₀.nL.toNat ≤ s₀.params.bufWordsMax.toNat) (m : Nat)
    (hfail : ∀ i, i < m → passes (searchAcc s₀.params s₀.lh s₀.nL i) s₀.diffL = false) :
    ∃ t, runSteps (m * (s₀.nL.toNat + 1029)) s₀ = .next t ∧ StartsAttempt s₀ m t := by
  induction m with
  | zero => exact ⟨s₀, by rw [Nat.zero_mul, runSteps_zero], hstart⟩
  | succ m ih =>
    obtain ⟨u, hrun, hu⟩ := ih fun i hi => hfail i (Nat.lt_succ_of_lt hi)
    obtain ⟨t, hlast, ht⟩ := hu.runSteps_fail hpos hmax (hfail m m.lt_succ_self)
    exact ⟨t, by rw [Nat.succ_mul, runSteps_add hrun, hlast], ht⟩

/-- Settles O60: by induction the failing attempts end at the start of attempt `m + 1`, which ends in FOUND. -/
theorem searchRunRefinesSearch : Obligations.SearchRunRefinesSearch := by
  intro s m hinv hevents hphase hseed hnonce hfail hpass
  obtain ⟨hpos, hmax⟩ := hinv.length (by rw [hphase]; decide)
  have hstart : StartsAttempt s 0 s := ⟨hphase, hevents, rfl, rfl, rfl, rfl, hseed, hnonce⟩
  obtain ⟨u, hrun, hu⟩ := runSteps_failing_attempts hstart hpos hmax m hfail
  have hsplit : (m + 1) * (s.nL.toNat + 1028) + m = m * (s.nL.toNat + 1029) + (s.nL.toNat + 1028) := by ring
  refine ⟨afterDiffTest (afterAttempt u), ?run, ?found, ?nonce, ?acc, ?seed⟩
  case run => rw [hsplit, runSteps_add hrun, hu.runSteps_test hpos hmax]
  case found => exact hu.phase_test.trans (phaseAfterTest_of_passes hpass)
  case nonce => rw [afterDiffTest_nonce, afterAttempt_nonce, hu.nonce]
  case acc => rw [afterDiffTest_acc, hu.acc_afterAttempt]
  case seed => rw [afterDiffTest_seed, afterAttempt_seed, hu.seed_next]

end Sys2Proof.Machine

namespace Sys2Proof.Machine

/-! The search does not see the host side of the state (45_search_fsm.md R265). -/

/-- `s` with the fields outside the datapath taken from `u`. -/
def withHostSide (u s : State) : State :=
  { s with err := u.err, diff := u.diff, bufLen := u.bufLen, digest := u.digest, bus := u.bus, events := u.events }

theorem datapath_withHostSide (u s : State) : datapath (withHostSide u s) = datapath s := rfl

/-- A state is its datapath and its host side. -/
theorem eq_withHostSide {u s : State} (h : datapath u = datapath s) : u = withHostSide u s := by
  simp only [datapath, Datapath.mk.injEq] at h
  obtain ⟨hparams, hlh, hgen, hseed, hnonce, hacc, hphase, hfidx, hround, hdiffL, hnL, hbuf, hepoch, hundef⟩ := h
  simp only [withHostSide, ← hparams, ← hlh, ← hgen, ← hseed, ← hnonce, ← hacc, ← hphase, ← hfidx, ← hround, ← hdiffL,
    ← hnL, ← hbuf, ← hepoch, ← hundef]

/-- A turn of the sequencer does the same to the datapath beside any host side, which it passes on. -/
theorem sequencerTurn_withHostSide (u : State) {s t : State} (h : sequencerTurn s = .next t) :
    sequencerTurn (withHostSide u s) = .next (withHostSide u t) := by
  have hop : nextMicroOp (withHostSide u s) = nextMicroOp s := rfl
  rw [sequencerTurn_eq, hop]
  rcases sequencerTurn_next h with ⟨hp, rfl⟩ | ⟨hp, rfl⟩ | ⟨hp, rfl⟩ | ⟨hp, hentry, rfl⟩ | ⟨hp, hentry, rfl⟩ |
    ⟨hp, hzero, rfl⟩ | ⟨hp, hne, hentry, rfl⟩ | ⟨hp, rfl⟩ | ⟨hp, rfl⟩ | ⟨hp, rfl⟩
  · rw [nextMicroOp_idle hp]; rfl
  · rw [nextMicroOp_seed hp]; rfl
  · rw [nextMicroOp_derive hp]; rfl
  · rw [nextMicroOp_fill hp, exec_fillStep (s := withHostSide u s) (of_decide_eq_true hentry)]; rfl
  · rw [nextMicroOp_binit hp, exec_bounceInit (s := withHostSide u s) (of_decide_eq_true hentry)]; rfl
  · rw [nextMicroOp_bounce hp]
    exact if_pos hzero
  · have hpos : 1 ≤ s.nL.toNat := by bv_omega
    rw [nextMicroOp_bounce hp, exec_bounceStep (s := withHostSide u s) hpos (of_decide_eq_true hentry)]; rfl
  · rw [nextMicroOp_test hp]; rfl
  · rw [nextMicroOp_incr hp]; rfl
  · rw [nextMicroOp_found hp]; rfl

/-- States with one datapath have one datapath after a turn of the sequencer. -/
theorem sequencerTurn_of_datapath_eq {u s t : State} (hsame : datapath u = datapath s)
    (h : sequencerTurn s = .next t) :
    ∃ v, sequencerTurn u = .next v ∧ datapath v = datapath t ∧ v.events = u.events := by
  refine ⟨withHostSide u t, ?_, datapath_withHostSide u t, rfl⟩
  calc sequencerTurn u
      = sequencerTurn (withHostSide u s) := congrArg sequencerTurn (eq_withHostSide hsame)
    _ = .next (withHostSide u t) := sequencerTurn_withHostSide u h

theorem datapath_regWrite (s : State) (r : Reg) (v : U32) : datapath (regWrite s r v) = datapath s := by
  cases r <;> rfl

/-- A host access that is no command leaves the datapath and the events to come. -/
theorem hostAccess_of_not_command {a : HostAccess} {s t : State} (hquiet : isCommand s.params a = false)
    (h : hostAccess a s = .next t) : datapath t = datapath s ∧ t.events = s.events := by
  obtain ⟨t', ht', hcases⟩ := hostAccess_cases a s
  obtain rfl : t' = t := Host.Outcome.next.inj (ht'.symm.trans h)
  rcases hcases with rfl | ⟨r, rfl⟩ | ⟨r, rfl⟩ | ⟨r, v, -, rfl⟩ | ⟨addr, w, -, hcommand, -⟩
  · exact ⟨rfl, rfl⟩
  · exact ⟨rfl, rfl⟩
  · exact ⟨rfl, rfl⟩
  · exact ⟨datapath_regWrite .., regWrite_events ..⟩
  · rw [hquiet] at hcommand
    cases hcommand

/-- A run of one step more that goes through begins with a step that goes on. -/
theorem runSteps_succ_next {n : Nat} {s t : State} (h : runSteps (n + 1) s = .next t) :
    ∃ u, step s = .next u ∧ runSteps n u = .next t := by
  rw [runSteps] at h
  cases hstep : step s with
  | next u => exact ⟨u, rfl, by rwa [hstep] at h⟩
  | fault r => rw [hstep] at h; cases h
  | refused r => rw [hstep] at h; cases h

/-- Quiet events and as many micro-steps as they hold turns of the sequencer, from states with one datapath, end in
states with one datapath. -/
theorem runSteps_of_quiet {evs : List Event} {s t u : State} (hquiet : ∀ e ∈ evs, quiet s.params e = true)
    (hs : s.events = evs) (hu : u.events = []) (hsame : datapath u = datapath s)
    (hrun : runSteps evs.length s = .next t) :
    ∃ v, runSteps (evs.count .seq) u = .next v ∧ datapath v = datapath t := by
  induction evs generalizing s u with
  | nil =>
    obtain rfl : s = t := Host.Outcome.next.inj hrun
    exact ⟨u, rfl, hsame⟩
  | cons e rest ih =>
    obtain ⟨s', hstep, hrest⟩ := runSteps_succ_next hrun
    rw [step_cons hs] at hstep
    have hbefore : datapath u = datapath { s with events := rest } := hsame
    obtain ⟨hfirst, hquiet⟩ := List.forall_mem_cons.mp hquiet
    cases e with
    | seq =>
      rw [perform_seq] at hstep
      obtain ⟨u', hturn, hafter, hevents⟩ := sequencerTurn_of_datapath_eq hbefore hstep
      obtain ⟨hparams, -, hevents'⟩ := sequencerTurn_frame hstep
      obtain ⟨v, hv, hdata⟩ := ih (by rwa [hparams]) hevents' (hevents.trans hu) hafter hrest
      have hstep' : step u = .next u' := (step_of_events_nil hu).trans hturn
      exact ⟨v, by rw [List.count_cons_self, runSteps_succ_of_next hstep', hv], hdata⟩
    | host a =>
      rw [perform_host] at hstep
      have hnot : isCommand s.params a = false := (Bool.not_eq_true' _).mp hfirst
      obtain ⟨hkeeps, hevents'⟩ := hostAccess_of_not_command (s := { s with events := rest }) hnot hstep
      have hparams : s'.params = s.params := congrArg Datapath.params hkeeps
      rw [List.count_cons_of_ne Event.noConfusion]
      exact ih (by rwa [hparams]) hevents' hu (hbefore.trans hkeeps.symm) hrest
    | reset => cases hfirst

/-- Settles O53: the two runs keep one datapath; only the turns of the sequencer move it. -/
theorem quietHostDoesNotAffectSearch : Obligations.QuietHostDoesNotAffectSearch := fun s _ evs hquiet hrun =>
  runSteps_of_quiet (s := { s with events := evs }) hquiet rfl rfl rfl hrun

end Sys2Proof.Machine

namespace Sys2Proof.Machine

/-! The host commands as functions on states (45_search_fsm.md R252 to R255). -/

theorem exec_nop (g : BitVec 28) (s : State) : exec (.nop g) s = .next s := rfl

theorem exec_abort (g : BitVec 28) (s : State) : exec (.abort g) s = .next { s with phase := phIdle } := rfl

theorem exec_clrerr (g : BitVec 28) (s : State) : exec (.clrerr g) s = .next (clearErr s) := rfl

theorem exec_reservedCmdLow (c : U4) (g : BitVec 28) (s : State) :
    exec (.reservedCmdLow c g) s = .next (raise .badCmd s) := rfl

theorem exec_reservedCmdHigh (c : U4) (g : BitVec 28) (s : State) :
    exec (.reservedCmdHigh c g) s = .next (raise .badCmd s) := rfl

/-- A word of either reserved range of CMD records BAD_CMD. -/
theorem exec_decode_reserved {w : U32} (h : 4 ≤ (cmdField w).toNat) (s : State) :
    exec (decode (.command w)) s = .next (raise .badCmd s) := by
  rcases Nat.lt_or_ge (cmdField w).toNat 8 with hlow | hhigh
  · rw [decode_command_reservedLow h (Nat.le_of_lt_succ hlow), exec_reservedCmdLow]
  · rw [decode_command_reservedHigh hhigh, exec_reservedCmdHigh]

/-- Settles O12: both rows, and so every word with CMD 4 or more, are `raise BAD_CMD`. -/
theorem reservedCommandRecordsBadCmd : Obligations.ReservedCommandRecordsBadCmd := fun s =>
  ⟨fun c g => exec_reservedCmdLow c g s, fun c g => exec_reservedCmdHigh c g s, fun _ h => exec_decode_reserved h s⟩

/-- Settles O7: the row of NOP, and the words that decode to it. -/
theorem nopChangesNothing : Obligations.NopChangesNothing := fun s =>
  ⟨fun g => exec_nop g s, fun w h => by rw [decode_command_nop h, exec_nop]⟩

/-- In IDLE the flags and the PHASE field of STATUS are all 0. -/
theorem statusWord_low_byte_of_idle {s : State} (h : s.phase = phIdle) : (statusWord s).extractLsb' 0 8 = 0#8 := by
  have hbusy : isBusy phIdle = false := by decide
  have hfound : isFound phIdle = false := by decide
  apply BitVec.eq_of_getLsbD_eq
  intro i hi
  simp [statusWord_getLsbD, h, hi, hbusy, hfound]

/-- Settles O10: the row of ABORT and the words that decode to it; what STATUS then reads is that of IDLE. -/
theorem abortGoesIdle : Obligations.AbortGoesIdle := fun s =>
  ⟨fun g => exec_abort g s, fun w h => by rw [decode_command_abort h, exec_abort], statusWord_low_byte_of_idle rfl, rfl⟩

/-- Settles O11: the row of CLRERR and the words that decode to it; STATUS.ERR is the code of the error recorded. -/
theorem clrerrClearsError : Obligations.ClrerrClearsError := fun s =>
  ⟨fun g => exec_clrerr g s, fun w h => by rw [decode_command_clrerr h, exec_clrerr, clearErr], statusWord_err _⟩

/-! The seed (45_search_fsm.md R260, 10_state.md R56). -/

/-- SEED_HI and SEED_LO are the two halves of SEED (10_state.md R53). -/
theorem regRead_seed (s : State) : regRead s .seedHi ++ regRead s .seedLo = s.seed := by
  calc s.seed.extractLsb' 32 32 ++ s.seed.extractLsb' 0 32
      = s.seed.extractLsb' 0 64 := BitVec.extractLsb'_append_extractLsb'_eq_extractLsb' (by rfl)
    _ = s.seed := BitVec.extractLsb'_eq_self

/-- An odd factor keeps a word 4 mod 8: modulo 8 the product is 4 times an odd number. -/
theorem mul_mod_eight_of_odd {x m : U64} (hodd : m.toNat % 2 = 1) (hx : x.toNat % 8 = 4) : (x * m).toNat % 8 = 4 := by
  obtain ⟨a, ha⟩ : ∃ a, x.toNat = 8 * a + 4 := ⟨x.toNat / 8, by omega⟩
  obtain ⟨b, hb⟩ : ∃ b, m.toNat = 2 * b + 1 := ⟨m.toNat / 2, by omega⟩
  have hproduct : x.toNat * m.toNat = 8 * (2 * a * b + a + b) + 4 := by rw [ha, hb]; ring
  rw [BitVec.toNat_mul, Nat.mod_mod_of_dvd _ (by decide), hproduct]
  omega

/-- Settles O14: the next state is `afterSeedAdvance`, read through the window. -/
theorem seedAdvanceMultipliesSeed : Obligations.SeedAdvanceMultipliesSeed := fun s =>
  ⟨afterSeedAdvance s, exec_seedAdvance s, rfl, BitVec.toNat_mul .., statusWord_phase _, regRead_seed _,
    mul_mod_eight_of_odd⟩

/-- Settles O15: the next state is `afterStateDerive`. -/
theorem stateDeriveXorsSeed : Obligations.StateDeriveXorsSeed := exec_stateDerive

/-- Settles O22: the next state is `afterNonceInc`. -/
theorem nonceIncWraps : Obligations.NonceIncWraps := fun s =>
  ⟨afterNonceInc s, exec_nonceInc s, rfl, BitVec.toNat_add ..⟩

/-! The branch of the test (45_search_fsm.md R262). -/

/-- Only the zero word has 64 leading zeros. -/
theorem lzc64_ge_64_iff (x : U64) : 64 ≤ lzc64 x ↔ x = 0#64 := by
  rcases lzc64_cases x with ⟨rfl, hcount⟩ | ⟨i, _, hset, -, hcount⟩
  · simp [hcount]
  · refine iff_of_false (by omega) ?_
    rintro rfl
    simp at hset

theorem phaseAfterTest_eq_found_iff (acc : U64) (d : U8) : phaseAfterTest acc d = phFound ↔ d.toNat ≤ lzc64 acc := by
  rw [← passes_iff]
  rcases phaseAfterTest_cases acc d with ⟨hpass, hnext⟩ | ⟨hfail, hnext⟩
  · simp [hpass, hnext]
  · simp only [hfail, hnext, Bool.false_eq_true, iff_false]
    decide

/-- Settles O21: FOUND exactly when the count reaches the difficulty, and the count lies between 0 and 64. -/
theorem diffTestBranches : Obligations.DiffTestBranches := by
  intro s
  refine ⟨afterDiffTest s, exec_diffTest s, ?next, ?done, ?zero, ?sixtyFour, ?above⟩
  case next => simp only [afterDiffTest, phaseAfterTest, passes, decide_eq_true_eq]
  case done => exact (isFound_iff _).trans (phaseAfterTest_eq_found_iff ..)
  case zero => exact fun h => (phaseAfterTest_eq_found_iff ..).mpr (h ▸ Nat.zero_le _)
  case sixtyFour =>
    intro h
    rw [← lzc64_ge_64_iff, ← h]
    exact phaseAfterTest_eq_found_iff ..
  case above =>
    exact fun h => phaseAfterTest_of_fails (passes_eq_false_iff.mpr (Nat.lt_of_le_of_lt (lzc64_le s.acc) h))

end Sys2Proof.Machine

namespace Sys2Proof.Machine

/-! A refused START (60_exceptions.md R292, R293, R295). -/

/-- The busy phases as a list, SEED to INCR (60_exceptions.md R293). -/
theorem isBusy_iff_mem (p : U4) :
    isBusy p = true ↔ p ∈ [0x1#4, 0x2#4, 0x3#4, 0x4#4, 0x5#4, 0x6#4, 0x7#4] := by
  simp [isBusy, or_assoc]

theorem badLength_iff (s : State) :
    badLength s = true ↔ s.bufLen.toNat = 0 ∨ s.params.bufWordsMax.toNat < s.bufLen.toNat := by
  rw [← Bool.not_eq_false, badLength_eq_false_iff]
  omega

/-- Being busy is tested first, so BUF_LEN plays no part (R295). -/
theorem exec_start_of_busy {s : State} (g : BitVec 28) (hbusy : isBusy s.phase = true) :
    exec (.start g) s = .next (raise .busyStart s) :=
  if_pos hbusy

theorem exec_start_of_badLength {s : State} (g : BitVec 28) (hnotBusy : ¬ isBusy s.phase = true)
    (hlength : badLength s = true) : exec (.start g) s = .next (raise .badBufLen s) :=
  (if_neg hnotBusy).trans (if_pos hlength)

/-- Settles O9: the two refusals of START, each the `raise` of its code, which touches ERR alone. -/
theorem startRefused : Obligations.StartRefused := fun s g =>
  ⟨fun hbusy => exec_start_of_busy g ((isBusy_iff_mem _).mpr hbusy),
    fun hnotBusy hlength => exec_start_of_badLength g (mt (isBusy_iff_mem _).mp hnotBusy) ((badLength_iff s).mpr hlength)⟩

end Sys2Proof.Machine

namespace Sys2Proof.Machine

/-! The reset event (70_reset_and_hazards.md R320). -/

/-- A listed reset is performed whatever the rest of the state holds; only the events behind it are left. -/
theorem step_reset {s : State} {rest : List Event} (h : s.events = .reset :: rest) :
    step s = .next (resetEvent { s with events := rest }) := by
  rw [step_cons h, perform_reset]

/-- STATUS reads 0 in IDLE while no error is recorded (10_state.md R45). -/
theorem statusWord_of_idle_of_no_error {s : State} (hphase : s.phase = phIdle) (herr : s.err = .none) :
    statusWord s = 0#32 := by
  rw [statusWord, hphase, herr]
  decide

theorem digestGet_zero (k : Fin 8) : digestGet Digest.zero k = 0#32 := by
  fin_cases k <;> rfl

/-- Settles O44: the next state is `resetEvent`, whose elements are the table's; the window reads are those of the
registers in it. -/
theorem resetEventSetsEverything : Obligations.ResetEventSetsEverything := by
  intro s rest h
  refine ⟨_, step_reset h, rfl, rfl, rfl, rfl, rfl, rfl, rfl, rfl, rfl, rfl, rfl, rfl, ?bufLen, ?digest, rfl,
    ?status, rfl, ?result, ?seed, rfl, rfl, rfl⟩
  case bufLen => exact resetLength_toNat _
  case digest => exact digestGet_zero
  case status => exact statusWord_of_idle_of_no_error rfl rfl
  case result => exact regRead_result _
  case seed => exact regRead_seed _

end Sys2Proof.Machine

namespace Sys2Proof

/-! Decoding and encoding are inverse (30_encoding.md R112, R113, R115). -/

/-- The command words of a CMD value between 4 and 7 decode to the first reserved row. -/
theorem decode_commandWord_reservedLow {c : U4} (h : c.extractLsb' 2 2 = 0b01#2) (g : BitVec 28) :
    decode (.command (commandWord g c)) = .reservedCmdLow c g := by
  have hrow : ∀ c : U4, c.extractLsb' 2 2 = 0b01#2 → 4 ≤ c.toNat ∧ c.toNat ≤ 7 := by decide
  obtain ⟨hmin, hmax⟩ := hrow c h
  rw [decode_command_reservedLow (by rwa [cmdField_commandWord]) (by rwa [cmdField_commandWord]),
    cmdField_commandWord, ignoredField_commandWord]

/-- The command words of a CMD value from 8 on decode to the second reserved row. -/
theorem decode_commandWord_reservedHigh {c : U4} (h : c.getLsbD 3 = true) (g : BitVec 28) :
    decode (.command (commandWord g c)) = .reservedCmdHigh c g := by
  have hrow : ∀ c : U4, c.getLsbD 3 = true → 8 ≤ c.toNat := by decide
  rw [decode_command_reservedHigh (by rw [cmdField_commandWord]; exact hrow c h), cmdField_commandWord,
    ignoredField_commandWord]

theorem decode_encode_of_wellFormed {i : Instr} (h : i.wellFormed = true) : decode (encode i) = i := by
  cases i with
  | nop g => rw [encode, decode_command_nop (cmdField_commandWord ..), ignoredField_commandWord]
  | start g => rw [encode, decode_command_start (cmdField_commandWord ..), ignoredField_commandWord]
  | abort g => rw [encode, decode_command_abort (cmdField_commandWord ..), ignoredField_commandWord]
  | clrerr g => rw [encode, decode_command_clrerr (cmdField_commandWord ..), ignoredField_commandWord]
  | reservedCmdLow c g => exact decode_commandWord_reservedLow (of_decide_eq_true h) g
  | reservedCmdHigh c g => exact decode_commandWord_reservedHigh h g
  | idleHold | seedAdvance | stateDerive | fillStep | bounceInit | bounceStep | diffTest | nonceInc | foundHold
  | reservedPhase9 => rfl
  | reservedPhaseAB c =>
    revert c
    decide
  | reservedPhaseCF c =>
    revert c
    decide

/-- The phase decoder is total on the sixteen codes and loses none (R115, R116). -/
theorem decode_phase_wellFormed_encode (c : U4) :
    (decode (.phase c)).wellFormed = true ∧ encode (decode (.phase c)) = .phase c := by
  revert c
  decide

/-- Settles O1: one way by the row of the instruction, the other way by the form of the code. -/
theorem decodeEncodeAgree : Obligations.DecodeEncodeAgree := by
  refine ⟨fun i => decode_encode_of_wellFormed, fun c => ?_⟩
  cases c with
  | command w => exact decode_command_wellFormed_encode w
  | phase p => exact decode_phase_wellFormed_encode p

/-- Settles O3: each code is decoded by computation. -/
theorem specCodesDecode : Obligations.SpecCodesDecode := by
  unfold Obligations.SpecCodesDecode
  decide

end Sys2Proof

namespace Sys2Proof.Machine

/-! The step that performs a given event. -/

/-- What a command does depends on its CMD field alone (30_encoding.md R111). -/
theorem exec_decode_of_cmdField_eq {w w' : U32} (h : cmdField w = cmdField w') (s : State) :
    exec (decode (.command w)) s = exec (decode (.command w')) s := by
  rcases cmd_cases (cmdField w) with hc | hc | hc | hc | ⟨hmin, -⟩ | hmin
  · rw [decode_command_nop hc, decode_command_nop (h ▸ hc), exec_nop, exec_nop]
  · rw [decode_command_start hc, decode_command_start (h ▸ hc)]
    rfl
  · rw [decode_command_abort hc, decode_command_abort (h ▸ hc), exec_abort, exec_abort]
  · rw [decode_command_clrerr hc, decode_command_clrerr (h ▸ hc), exec_clrerr, exec_clrerr]
  · rw [exec_decode_reserved hmin, exec_decode_reserved (h ▸ hmin)]
  · have hmin' : 4 ≤ (cmdField w).toNat := by omega
    rw [exec_decode_reserved hmin', exec_decode_reserved (h ▸ hmin')]

/-- Settles O4: the CMD field is the low four bits. -/
theorem ignoredBitsHaveNoEffect : Obligations.IgnoredBitsHaveNoEffect := fun _ _ s h =>
  exec_decode_of_cmdField_eq h s

theorem step_of_nextEvent_seq {s : State} (h : nextEvent s = .seq) : step s = sequencerTurn (takeEvent s) := by
  rw [step_eq, h, perform_seq]

/-- Settles O5: the turn of the sequencer runs `nextMicroOp`, and taking the event off the list keeps PHASE. -/
theorem sequencerStepRunsPhase : Obligations.SequencerStepRunsPhase := fun _ h => step_of_nextEvent_seq h

/-- CTRL is the register at offset 0, so the address BASE is its own. -/
theorem step_ctrlWrite {s : State} {w : U32} {rest : List Event}
    (h : s.events = .host (.write s.params.base (.w32 w)) :: rest) :
    step s = exec (decode (.command w)) (respond writeOk { s with events := rest }) := by
  rw [step_windowWrite32 (off := 0x00#8) rfl h]
  exact if_pos rfl

/-- Settles O6: the acknowledged write is `respond writeOk`. -/
theorem ctrlWriteStepRunsCommand : Obligations.CtrlWriteStepRunsCommand := fun _ _ _ h => step_ctrlWrite h

/-- Settles O13: the rows of IDLE_HOLD and FOUND_HOLD. -/
theorem holdsChangeNothing : Obligations.HoldsChangeNothing := fun _ => ⟨rfl, rfl⟩

/-- Settles O34: the answer of a read is `respond`, which keeps every register. -/
theorem supportedReadHasNoSideEffect : Obligations.SupportedReadHasNoSideEffect := fun _ _ _ ha he =>
  step_windowRead32 ha he

theorem offsetOf_outside {p : Config.Params} {addr : Nat} (h : addr < p.base ∨ p.base + 256 ≤ addr) :
    offsetOf p addr = none :=
  if_neg (by omega)

/-- Settles O40: an address outside the window has no offset, and the access is dropped. -/
theorem accessOutsideWindowChangesNothing : Obligations.AccessOutsideWindowChangesNothing := by
  intro s addr rest hout
  have hnone : offsetOf s.params addr = none := offsetOf_outside hout
  constructor
  · intro w he
    rw [step_cons he, perform_host]
    simp only [hostAccess, hnone]
  · intro d he
    rw [step_cons he, perform_host]
    simp only [hostAccess, hnone]

/-! Buffer accesses at the edge of what the rules define (log entries 6, 7). -/

theorem exec_bounceStep_of_zero_length {s : State} (h : s.nL = 0#32) :
    exec .bounceStep s = .next (bounceFold (prngNext s.gen).2 (Config.bounceUndefined s.undefCount)
      { s with undefCount := s.undefCount + 1 }) :=
  if_pos h

/-- Settles O19: the word folded in is the free value of log entry 6. -/
theorem bounceStepWithZeroLengthCompletes : Obligations.BounceStepWithZeroLengthCompletes := fun s h =>
  ⟨Config.bounceUndefined s.undefCount, exec_bounceStep_of_zero_length (BitVec.eq_of_toNat_eq h)⟩

theorem exec_fillStep_missing {s : State} (h : s.params.bufWordsMax.toNat ≤ s.fidx.toNat) :
    exec .fillStep s = .fault (.noSuchEntry s.fidx.toNat) := by
  rw [show exec .fillStep s = execFillStep s from rfl, execFillStep]
  exact memWrite_missing (Nat.not_lt.mpr h)

theorem exec_bounceInit_missing {s : State} (h : s.params.bufWordsMax.toNat = 0) :
    exec .bounceInit s = .fault (.noSuchEntry 0) := by
  rw [show exec .bounceInit s = execBounceInit s from rfl, execBounceInit]
  exact memRead_missing (by omega)

theorem exec_bounceStep_missing {s : State} (hpos : 1 ≤ s.nL.toNat)
    (h : s.params.bufWordsMax.toNat ≤ (bounceIndex (prngNext s.gen).1 s.nL).toNat) :
    exec .bounceStep s = .fault (.noSuchEntry (bounceIndex (prngNext s.gen).1 s.nL).toNat) := by
  have hne : s.nL ≠ 0#32 := by bv_omega
  exact (if_neg hne).trans (memRead_missing (Nat.not_lt.mpr h))

/-- Settles O20: the checked access of each of the three micro-operations, the last with its index in closed form. -/
theorem accessBeyondBufferFaults : Obligations.AccessBeyondBufferFaults := by
  intro s
  refine ⟨exec_fillStep_missing, exec_bounceInit_missing, fun hpos hmissing => ?_⟩
  rw [← prngNext_output, ← bounceIndex_toNat] at hmissing ⊢
  exact exec_bounceStep_missing hpos hmissing

/-! What the window reads (10_state.md R43 to R54). -/

/-- From offset 0x48 on the window is reserved (R54). -/
theorem regAt_reserved {off : U8} (h : 0x48 ≤ off.toNat) : regAt off = .reserved := by
  unfold regAt
  split
  case h_19 => rfl
  all_goals omega

/-- Settles O35: the registers by offset, the two 64-bit values as their halves. -/
theorem windowReadsTheMap : Obligations.WindowReadsTheMap := by
  intro s
  refine ⟨rfl, rfl, ?difficulty, rfl, rfl, rfl, rfl, rfl, rfl, rfl, rfl, rfl, rfl, rfl, regRead_result s, regRead_seed s,
    ?reserved⟩
  case difficulty => exact BitVec.toNat_setWidth_of_le (by decide)
  case reserved =>
    intro off h
    rw [regAt_reserved h, regRead]

/-- Settles O45: each read of the reset state is computed. -/
theorem resetStateReads : Obligations.ResetStateReads := by
  refine ⟨?status, rfl, rfl, digestGet_zero, rfl, rfl, rfl, rfl, ?seedLo, ?seedHi, rfl, ?seedInit, ?seedMult⟩
  case status => exact statusWord_of_idle_of_no_error rfl rfl
  case seedLo => decide
  case seedHi => decide
  case seedInit => decide
  case seedMult => decide

end Sys2Proof.Machine

namespace Sys2Proof.Machine

/-! The invariant on the parts of the state it speaks of. -/

/-- A state with the datapath of an invariant state satisfies the invariant: ERR, the host registers, the bus and the
events play no part. -/
theorem Inv.of_datapath_eq {s t : State} (h : Inv s) (hsame : datapath t = datapath s) : Inv t := by
  rw [eq_withHostSide hsame]
  exact ⟨h.params, h.bufForm, h.bufRange, h.phaseLegal, h.roundRange, h.fidxRange, h.length, h.filling, h.filled,
    h.bouncing, h.bounced, h.foundPasses, h.incrFails⟩

/-- The part of `Inv` that holds in every phase, on the parameters, the buffer, ROUND and FIDX. -/
structure Bounds (p : Config.Params) (m : Memory) (round : BitVec 11) (fidx : U32) : Prop where
  params : p.wf = true
  bufForm : Memory.wf m = true
  bufRange : ∀ j, (bufLookup m j).isSome = true → j < p.bufWordsMax.toNat
  roundRange : round.toNat ≤ 1024
  fidxRange : fidx.toNat ≤ p.bufWordsMax.toNat

/-- The length that a search needs (10_state.md R39). -/
def LegalLength (s : State) : Prop := 1 ≤ s.nL.toNat ∧ s.nL.toNat ≤ s.params.bufWordsMax.toNat

/-- What the fill of an attempt leaves, from BINIT on (20_memory.md R83). -/
structure FillDone (s : State) : Prop where
  length : LegalLength s
  fidx : s.fidx = s.nL
  entries : ∀ j, j < s.nL.toNat → written s j = true

section
variable {s : State}

theorem Inv.bounds (h : Inv s) : Bounds s.params s.buf s.round s.fidx :=
  ⟨h.params, h.bufForm, h.bufRange, h.roundRange, h.fidxRange⟩

theorem Inv.legalLength (h : Inv s) {p : U4} (hp : s.phase = p) (hne : p ≠ phIdle) : LegalLength s :=
  h.length (hp ▸ hne)

theorem Inv.fillDone (h : Inv s) {p : U4} (hp : s.phase = p) (hafter : afterFill p = true) : FillDone s := by
  obtain ⟨hfidx, hentries⟩ := h.filled (hp ▸ hafter)
  refine ⟨h.legalLength hp ?_, hfidx, hentries⟩
  rintro rfl
  exact absurd hafter (by decide)

/-- In IDLE, SEED and DERIVE only the length is promised beside the bounds. -/
theorem Bounds.inv_early (hb : Bounds s.params s.buf s.round s.fidx)
    (hp : s.phase = phIdle ∨ s.phase = phSeed ∨ s.phase = phDerive) (hlength : s.phase ≠ phIdle → LegalLength s) :
    Inv s := by
  have hearly : ∀ p : U4, p = phIdle ∨ p = phSeed ∨ p = phDerive →
      p.toNat ≤ 8 ∧ p ≠ phFill ∧ ¬ afterFill p = true ∧ p ≠ phBounce ∧ ¬ afterBounce p = true ∧ p ≠ phFound ∧
        p ≠ phIncr := by
    decide
  obtain ⟨hlegal, hnotFill, hnotFilled, hnotBounce, hnotBounced, hnotFound, hnotIncr⟩ := hearly s.phase hp
  exact
    { hb with
      phaseLegal := hlegal
      length := hlength
      filling := fun h => absurd h hnotFill
      filled := fun h => absurd h hnotFilled
      bouncing := fun h => absurd h hnotBounce
      bounced := fun h => absurd h hnotBounced
      foundPasses := fun h => absurd h hnotFound
      incrFails := fun h => absurd h hnotIncr }

/-- In FILL there is room for an entry, and the entries below it are written. -/
theorem Bounds.inv_fill (hb : Bounds s.params s.buf s.round s.fidx) (hp : s.phase = phFill) (hlength : LegalLength s)
    (hroom : s.fidx.toNat < s.nL.toNat) (hbelow : ∀ j, j < s.fidx.toNat → written s j = true) : Inv s :=
  { hb with
    phaseLegal := hp ▸ by decide
    length := fun _ => hlength
    filling := fun _ => ⟨hroom, hbelow⟩
    filled := fun h => absurd (hp ▸ h) (by decide)
    bouncing := fun h => absurd (hp ▸ h) (by decide)
    bounced := fun h => absurd (hp ▸ h) (by decide)
    foundPasses := fun h => absurd (hp ▸ h) (by decide)
    incrFails := fun h => absurd (hp ▸ h) (by decide) }

/-- After the fill, what each phase promises of ROUND and of the test is given phase by phase. -/
theorem Bounds.inv_filled (hb : Bounds s.params s.buf s.round s.fidx) (hdone : FillDone s)
    (hp : afterFill s.phase = true) (hbouncing : s.phase = phBounce → s.round.toNat < 1024)
    (hbounced : afterBounce s.phase = true → s.round = rounds)
    (hfound : s.phase = phFound → passes s.acc s.diffL = true)
    (hincr : s.phase = phIncr → passes s.acc s.diffL = false) : Inv s := by
  have hafter : ∀ p : U4, afterFill p = true → p.toNat ≤ 8 ∧ p ≠ phFill := by decide
  obtain ⟨hlegal, hnotFill⟩ := hafter s.phase hp
  exact
    { hb with
      phaseLegal := hlegal
      length := fun _ => hdone.length
      filling := fun h => absurd h hnotFill
      filled := fun _ => ⟨hdone.fidx, hdone.entries⟩
      bouncing := hbouncing
      bounced := hbounced
      foundPasses := hfound
      incrFails := hincr }

/-- In BOUNCE a round is left. -/
theorem Bounds.inv_bounce (hb : Bounds s.params s.buf s.round s.fidx) (hdone : FillDone s) (hp : s.phase = phBounce)
    (hleft : s.round.toNat < 1024) : Inv s :=
  hb.inv_filled hdone (hp ▸ by decide) (fun _ => hleft) (fun h => absurd (hp ▸ h) (by decide))
    (fun h => absurd (hp ▸ h) (by decide)) (fun h => absurd (hp ▸ h) (by decide))

/-! Each micro-operation keeps the invariant from its own phase (45_search_fsm.md R250). -/

theorem Inv.seedAdvance (h : Inv s) (hp : s.phase = phSeed) : Inv (afterSeedAdvance s) :=
  Bounds.inv_early h.bounds (.inr (.inr rfl)) fun _ => h.legalLength hp (by decide)

/-- STATE_DERIVE leaves FIDX at 0, below any legal length. -/
theorem Inv.stateDerive (h : Inv s) (hp : s.phase = phDerive) : Inv (afterStateDerive s) := by
  have hlength : LegalLength s := h.legalLength hp (by decide)
  exact Bounds.inv_fill { h.bounds with fidxRange := Nat.zero_le _ } rfl hlength hlength.1
    fun j hj => absurd hj j.not_lt_zero

/-- A store at FIDX, an entry that exists, keeps the buffer in form and in range, and FIDX + 1 within it. -/
theorem Bounds.fillStep (hb : Bounds s.params s.buf s.round s.fidx) (v : U64)
    (hroom : s.fidx.toNat < s.params.bufWordsMax.toNat) :
    Bounds s.params (bufStore s.buf s.fidx.toNat v) s.round (s.fidx + 1#32) where
  params := hb.params
  bufForm := wf_bufStore _ _ _ hb.bufForm
  bufRange := by
    intro j hj
    rw [bufLookup_bufStore] at hj
    split at hj
    · next h => rwa [h]
    · exact hb.bufRange j hj
  roundRange := hb.roundRange
  fidxRange := by bv_omega

/-- FILL_STEP writes entry FIDX and goes on above it, or to BINIT when N_L entries are written. -/
theorem Inv.fillStep (h : Inv s) (hp : s.phase = phFill) : Inv (afterFillStep s) := by
  obtain ⟨hroom, hbelow⟩ := h.filling hp
  have hlength : LegalLength s := h.legalLength hp (by decide)
  have hcount : (s.fidx + 1#32).toNat = s.fidx.toNat + 1 := by bv_omega
  have hbounds : Bounds s.params (afterFillStep s).buf s.round (s.fidx + 1#32) :=
    h.bounds.fillStep _ (hroom.trans_le hlength.2)
  have hwritten : ∀ j, j < (s.fidx + 1#32).toNat → written (afterFillStep s) j = true := by
    intro j hj
    rw [written_afterFillStep, Bool.or_eq_true, decide_eq_true_eq]
    rcases Nat.lt_or_ge j s.fidx.toNat with hlt | hge
    · exact .inr (hbelow j hlt)
    · exact .inl (by omega)
  rcases phaseAfterFill_cases (s.fidx + 1#32) s.nL s.phase with ⟨hend, hnext⟩ | ⟨hmore, hnext⟩
  · have hbinit : (afterFillStep s).phase = phBinit := hnext
    refine Bounds.inv_filled hbounds ⟨hlength, hend, ?_⟩ (hbinit ▸ by decide) ?_ ?_ ?_ ?_
    · exact fun j hj => hwritten j (hend ▸ hj)
    all_goals exact fun h => absurd (hbinit ▸ h) (by decide)
  · refine Bounds.inv_fill hbounds (hnext.trans hp) hlength ?_ hwritten
    change (s.fidx + 1#32).toNat < s.nL.toNat
    bv_omega

theorem Inv.bounceInit (h : Inv s) (hp : s.phase = phBinit) : Inv (afterBounceInit s) := by
  obtain ⟨hlength, hfidx, hentries⟩ := h.fillDone hp (by decide)
  exact Bounds.inv_bounce { h.bounds with roundRange := Nat.zero_le _ } ⟨hlength, hfidx, hentries⟩ rfl
    (show (0#11).toNat < 1024 by decide)

/-- BOUNCE_STEP counts a round and stays in BOUNCE while one is left; after the last it goes to TEST. -/
theorem Inv.bounceStep (h : Inv s) (hp : s.phase = phBounce) : Inv (afterBounceStep s) := by
  obtain ⟨hlength, hfidx, hentries⟩ := h.fillDone hp (by decide)
  have hleft : s.round.toNat < 1024 := h.bouncing hp
  have hcount : (s.round + 1#11).toNat = s.round.toNat + 1 := by bv_omega
  have hbounds : Bounds s.params s.buf (s.round + 1#11) s.fidx := { h.bounds with roundRange := by omega }
  have hdone : FillDone (afterBounceStep s) := ⟨hlength, hfidx, hentries⟩
  rcases phaseAfterRound_cases (s.round + 1#11) s.phase with ⟨hend, hnext⟩ | ⟨hmore, hnext⟩
  · have htest : (afterBounceStep s).phase = phTest := hnext
    refine Bounds.inv_filled hbounds hdone (htest ▸ by decide) ?_ (fun _ => hend) ?_ ?_
    all_goals exact fun h => absurd (htest ▸ h) (by decide)
  · refine Bounds.inv_bounce hbounds hdone (hnext.trans hp) ?_
    change (s.round + 1#11).toNat < 1024
    bv_omega

/-- DIFF_TEST goes to FOUND with a passing result and to INCR with a failing one. -/
theorem Inv.diffTest (h : Inv s) (hp : s.phase = phTest) : Inv (afterDiffTest s) := by
  obtain ⟨hlength, hfidx, hentries⟩ := h.fillDone hp (by decide)
  have hdone : FillDone (afterDiffTest s) := ⟨hlength, hfidx, hentries⟩
  have hround : s.round = rounds := h.bounced (hp ▸ by decide)
  rcases phaseAfterTest_cases s.acc s.diffL with ⟨hpass, hnext⟩ | ⟨hfail, hnext⟩
  · have hfound : (afterDiffTest s).phase = phFound := hnext
    exact Bounds.inv_filled h.bounds hdone (hfound ▸ by decide) (fun h => absurd (hfound ▸ h) (by decide))
      (fun _ => hround) (fun _ => hpass) (fun h => absurd (hfound ▸ h) (by decide))
  · have hincr : (afterDiffTest s).phase = phIncr := hnext
    exact Bounds.inv_filled h.bounds hdone (hincr ▸ by decide) (fun h => absurd (hincr ▸ h) (by decide))
      (fun _ => hround) (fun h => absurd (hincr ▸ h) (by decide)) (fun _ => hfail)

theorem Inv.nonceInc (h : Inv s) (hp : s.phase = phIncr) : Inv (afterNonceInc s) :=
  Bounds.inv_early h.bounds (.inr (.inl rfl)) fun _ => h.legalLength hp (by decide)

/-- A turn of the sequencer keeps the invariant. -/
theorem Inv.of_sequencerTurn {t : State} (h : Inv s) (ht : sequencerTurn s = .next t) : Inv t := by
  rcases sequencerTurn_next ht with ⟨_, rfl⟩ | ⟨hp, rfl⟩ | ⟨hp, rfl⟩ | ⟨hp, _, rfl⟩ | ⟨hp, _, rfl⟩ | ⟨hp, hzero, _⟩ |
    ⟨hp, _, _, rfl⟩ | ⟨hp, rfl⟩ | ⟨hp, rfl⟩ | ⟨_, rfl⟩
  · exact h
  · exact h.seedAdvance hp
  · exact h.stateDerive hp
  · exact h.fillStep hp
  · exact h.bounceInit hp
  · obtain ⟨hpos, -⟩ := h.legalLength hp (by decide)
    simp [hzero] at hpos
  · exact h.bounceStep hp
  · exact h.diffTest hp
  · exact h.nonceInc hp
  · exact h

/-! The events that are no turn of the sequencer. -/

theorem inv_resetFor {p : Config.Params} (h : p.wf = true) : Inv (State.resetFor p) :=
  Bounds.inv_early
    { params := h
      bufForm := rfl
      bufRange := fun _ hj => absurd hj (by simp [State.resetFor, bufLookup])
      roundRange := Nat.zero_le _
      fidxRange := Nat.zero_le _ }
    (.inl rfl) (fun hne => absurd rfl hne)

/-- Settles O46: nothing is written and PHASE is IDLE; the default parameters are in their ranges. -/
theorem resetSatisfiesInvariant : Obligations.ResetSatisfiesInvariant :=
  ⟨fun _ => inv_resetFor, inv_resetFor (by decide)⟩

/-- The reset event is the reset of the state's parameters but for the model's counters and the events to come. -/
theorem Inv.resetEvent (h : Inv s) : Inv (resetEvent s) := by
  have hreset := inv_resetFor h.params
  exact Bounds.inv_early hreset.bounds (.inl rfl) (fun hne => absurd rfl hne)

theorem Inv.abort (h : Inv s) : Inv { s with phase := phIdle } :=
  Bounds.inv_early h.bounds (.inl rfl) (fun hne => absurd rfl hne)

/-- The length a START is accepted with is legal (10_state.md R39). -/
theorem Inv.acceptStart (h : Inv s) (hlength : badLength s = false) : Inv (acceptStart s) :=
  Bounds.inv_early h.bounds (.inr (.inl rfl)) fun _ => (badLength_eq_false_iff s).mp hlength

end

/-- What a step does to the datapath, said once: a turn of the sequencer, reset, nothing, an accepted START or an
ABORT. -/
theorem step_datapath_cases {s t : State} (h : step s = .next t) :
    (nextEvent s = .seq ∧ sequencerTurn (takeEvent s) = .next t) ∨
    (nextEvent s = .reset ∧ t = resetEvent (takeEvent s)) ∨
    datapath t = datapath s ∨
    ((∃ g, commandOf s.params (nextEvent s) = some (.start g)) ∧ isBusy s.phase = false ∧ badLength s = false ∧
      datapath t = datapath (acceptStart s)) ∨
    ((∃ g, commandOf s.params (nextEvent s) = some (.abort g)) ∧ datapath t = datapath { s with phase := phIdle }) := by
  rcases step_next h with hturn | hreset | ⟨_, -, hhost⟩
  · exact .inl hturn
  · exact .inr (.inl hreset)
  · rcases hhost with rfl | ⟨_, rfl⟩ | ⟨_, rfl⟩ | ⟨_, _, rfl⟩ | ⟨i, hi, hcommand⟩
    · exact .inr (.inr (.inl rfl))
    · exact .inr (.inr (.inl rfl))
    · exact .inr (.inr (.inl rfl))
    · exact .inr (.inr (.inl (datapath_regWrite ..)))
    · rcases hcommand with rfl | ⟨⟨g, rfl⟩, hidle, hlength, rfl⟩ | ⟨⟨g, rfl⟩, rfl⟩ | ⟨-, rfl⟩ | ⟨_, -, rfl⟩
      · exact .inr (.inr (.inl rfl))
      · exact .inr (.inr (.inr (.inl ⟨⟨g, hi⟩, hidle, hlength, rfl⟩)))
      · exact .inr (.inr (.inr (.inr ⟨⟨g, hi⟩, rfl⟩)))
      · exact .inr (.inr (.inl rfl))
      · exact .inr (.inr (.inl rfl))

theorem Inv.takeEvent {s : State} (h : Inv s) : Inv (takeEvent s) := h.of_datapath_eq rfl

/-- Settles O47: each of the five things a step can do to the datapath keeps the invariant. -/
theorem stepKeepsInvariant : Obligations.StepKeepsInvariant := by
  intro s t h hstep
  rcases step_datapath_cases hstep with ⟨-, hturn⟩ | ⟨-, rfl⟩ | hsame | ⟨-, -, hlength, hstart⟩ | ⟨-, habort⟩
  · exact h.takeEvent.of_sequencerTurn hturn
  · exact h.takeEvent.resetEvent
  · exact h.of_datapath_eq hsame
  · exact (h.acceptStart hlength).of_datapath_eq hstart
  · exact h.abort.of_datapath_eq habort

/-! Progress (45_search_fsm.md R267). -/

theorem Inv.sequencerTurn_exists {s : State} (h : Inv s) : ∃ t, sequencerTurn s = .next t := by
  refine Machine.sequencerTurn_exists h.phaseLegal (fun hp => ?_) h.length
  obtain ⟨hroom, -⟩ := h.filling hp
  obtain ⟨-, hmax⟩ := h.legalLength hp (by decide)
  exact hroom.trans_le hmax

theorem Inv.step_exists {s : State} (h : Inv s) : ∃ t, step s = .next t := by
  rw [step_eq]
  cases nextEvent s with
  | seq => exact h.takeEvent.sequencerTurn_exists
  | host a =>
    obtain ⟨t, ht, -⟩ := hostAccess_cases a (Machine.takeEvent s)
    exact ⟨t, ht⟩
  | reset => exact ⟨_, rfl⟩

/-- Settles O48: progress by the kind of the event; the entries BINIT and BOUNCE read are below N_L, which the fill has
written. -/
theorem invariantStatesNeverStop : Obligations.InvariantStatesNeverStop := by
  intro s h
  refine ⟨h.step_exists, fun hp => ?_, fun hp => ?_⟩
  · have hdone := h.fillDone hp (by decide)
    exact hdone.entries 0 hdone.length.1
  · have hdone := h.fillDone hp (by decide)
    have hpos : 0 < s.nL.toNat := hdone.length.1
    exact ⟨by bv_omega, hdone.entries _ (bounceIndex_toNat_lt _ hpos)⟩

end Sys2Proof.Machine

namespace Sys2Proof.Machine

/-! What a turn of the sequencer keeps, and which steps touch ERR, the seed, the phase and the latched inputs. -/

/-- No turn of the sequencer touches the latched inputs, ERR, the host registers or the bus. -/
theorem sequencerTurn_keeps {s t : State} (h : sequencerTurn s = .next t) :
    t.params = s.params ∧ t.lh = s.lh ∧ t.diffL = s.diffL ∧ t.nL = s.nL ∧ t.err = s.err ∧ t.diff = s.diff ∧
    t.bufLen = s.bufLen ∧ t.digest = s.digest ∧ t.bus = s.bus ∧ t.bufEpoch = s.bufEpoch ∧ t.events = s.events := by
  rcases sequencerTurn_next h with ⟨_, rfl⟩ | ⟨_, rfl⟩ | ⟨_, rfl⟩ | ⟨_, _, rfl⟩ | ⟨_, _, rfl⟩ | ⟨_, _, rfl⟩ |
    ⟨_, _, _, rfl⟩ | ⟨_, rfl⟩ | ⟨_, rfl⟩ | ⟨_, rfl⟩ <;>
    exact ⟨rfl, rfl, rfl, rfl, rfl, rfl, rfl, rfl, rfl, rfl, rfl⟩

/-- Settles O43: the step is a turn of the sequencer on the state with the event taken off the list. -/
theorem microStepsKeepInputsAndErrors : Obligations.MicroStepsKeepInputsAndErrors := by
  intro s t hnext hstep
  rw [step_of_nextEvent_seq hnext] at hstep
  exact sequencerTurn_keeps hstep

theorem firstError_cases (old e : ErrCode) : firstError old e = old ∨ (old = .none ∧ firstError old e = e) := by
  by_cases h : old = .none
  · exact .inr ⟨h, by rw [h, firstError_none]⟩
  · exact .inl (firstError_of_ne e h)

/-- `t` differs from `s` by the recording of an error and the answer on the bus. -/
structure RecordsError (s t : State) : Prop where
  err : s.err = .none
  datapath : datapath t = datapath s
  diff : t.diff = s.diff
  bufLen : t.bufLen = s.bufLen
  digest : t.digest = s.digest

/-- A `raise` in answer to the next event keeps ERR or records an error. -/
theorem raise_respond_cases (e : ErrCode) (r : BusResponse) (s : State) :
    (raise e (respond r (takeEvent s))).err = s.err ∨ RecordsError s (raise e (respond r (takeEvent s))) := by
  rcases firstError_cases s.err e with hkept | ⟨hnone, -⟩
  · exact .inl hkept
  · exact .inr ⟨hnone, rfl, rfl, rfl, rfl⟩

/-- What a step does to ERR, said once: it keeps it, clears it by reset or CLRERR, or records an error. -/
theorem step_err_cases {s t : State} (h : step s = .next t) :
    t.err = s.err ∨ (nextEvent s = .reset ∧ t.err = .none) ∨
      ((∃ g, commandOf s.params (nextEvent s) = some (.clrerr g)) ∧ t.err = .none) ∨ RecordsError s t := by
  rcases step_next h with ⟨-, hturn⟩ | ⟨hreset, rfl⟩ | ⟨_, -, hhost⟩
  · obtain ⟨-, -, -, -, herr, -⟩ := sequencerTurn_keeps hturn
    exact .inl herr
  · exact .inr (.inl ⟨hreset, rfl⟩)
  · rcases hhost with rfl | ⟨_, rfl⟩ | ⟨r, rfl⟩ | ⟨_, _, rfl⟩ | ⟨i, hi, hcommand⟩
    · exact .inl rfl
    · exact .inl rfl
    · exact (raise_respond_cases .busErr r s).imp_right fun hrec => .inr (.inr hrec)
    · exact .inl (regWrite_err ..)
    · rcases hcommand with rfl | ⟨-, -, -, rfl⟩ | ⟨-, rfl⟩ | ⟨⟨g, rfl⟩, rfl⟩ | ⟨e, -, rfl⟩
      · exact .inl rfl
      · exact .inl rfl
      · exact .inl rfl
      · exact .inr (.inr (.inl ⟨⟨g, hi⟩, rfl⟩))
      · exact (raise_respond_cases e writeOk s).imp_right fun hrec => .inr (.inr hrec)

/-- Settles O41: an error is recorded only while none is, so reset and CLRERR are what remains. -/
theorem firstErrorIsSticky : Obligations.FirstErrorIsSticky := by
  intro s t hstep herr
  rcases step_err_cases hstep with hkept | ⟨hreset, -⟩ | ⟨hclear, -⟩ | hrec
  · exact .inl hkept
  · exact .inr (.inl hreset)
  · exact .inr (.inr hclear)
  · exact absurd hrec.err herr

/-- Settles O42: a step that leaves another error than before, and not none, records one. -/
theorem errorsNeverDisturbTheSearch : Obligations.ErrorsNeverDisturbTheSearch := by
  intro s t hstep hchanged hsome
  rcases step_err_cases hstep with hkept | ⟨-, hnone⟩ | ⟨-, hnone⟩ | hrec
  · exact absurd hkept hchanged
  · exact absurd hnone hsome
  · exact absurd hnone hsome
  · exact ⟨hrec.datapath, hrec.diff, hrec.bufLen, hrec.digest⟩

/-- SEED_ADVANCE is the one micro-operation that touches SEED (10_state.md R56). -/
theorem sequencerTurn_seed {s t : State} (h : sequencerTurn s = .next t) :
    t.seed = s.seed ∨ t.seed = s.seed * s.params.seedMult := by
  rcases sequencerTurn_next h with ⟨_, rfl⟩ | ⟨_, rfl⟩ | ⟨_, rfl⟩ | ⟨_, _, rfl⟩ | ⟨_, _, rfl⟩ | ⟨_, _, rfl⟩ |
    ⟨_, _, _, rfl⟩ | ⟨_, rfl⟩ | ⟨_, rfl⟩ | ⟨_, rfl⟩
  case inr.inl => exact .inr rfl
  all_goals exact .inl rfl

/-- No step changes the parameters (log entry 2). -/
theorem step_params {s t : State} (h : step s = .next t) : t.params = s.params := by
  rcases step_datapath_cases h with ⟨-, hturn⟩ | ⟨-, rfl⟩ | hsame | ⟨-, -, -, hstart⟩ | ⟨-, habort⟩
  · exact (sequencerTurn_keeps hturn).1
  · rfl
  · exact congrArg Datapath.params hsame
  · exact congrArg Datapath.params hstart
  · exact congrArg Datapath.params habort

/-- SEED after a step is what it was, its product by SEED_MULT, or SEED_INIT. -/
theorem step_seed_cases {s t : State} (h : step s = .next t) :
    t.seed = s.seed ∨ t.seed = s.seed * s.params.seedMult ∨ t.seed = s.params.seedInit := by
  rcases step_datapath_cases h with ⟨-, hturn⟩ | ⟨-, rfl⟩ | hsame | ⟨-, -, -, hstart⟩ | ⟨-, habort⟩
  · exact (sequencerTurn_seed hturn).imp_right .inl
  · exact .inr (.inr rfl)
  · exact .inl (congrArg Datapath.seed hsame)
  · exact .inr (.inr (congrArg Datapath.seed hstart))
  · exact .inl (congrArg Datapath.seed habort)

/-- Settles O49: each of the three values SEED can take is 4 mod 8, and 0 is not. -/
theorem seedStaysFourModEight : Obligations.SeedStaysFourModEight := by
  intro s t hstep hinit hodd hseed
  have hmod : t.seed.toNat % 8 = 4 := by
    rcases step_seed_cases hstep with h | h | h
    · rwa [h]
    · rw [h]
      exact mul_mod_eight_of_odd hodd hseed
    · rwa [h]
  refine ⟨hmod, fun hzero => ?_, step_params hstep⟩
  rw [hzero] at hmod
  exact absurd hmod (by decide)

/-- Settles O51: of the things a step can do to the datapath, those that can move PHASE are the three named. -/
theorem onlyCommandsAndResetMovePhase : Obligations.OnlyCommandsAndResetMovePhase := by
  intro s t hstep hnotTurn hmoved
  rcases step_datapath_cases hstep with ⟨hturn, -⟩ | ⟨hreset, rfl⟩ | hsame | ⟨⟨g, hg⟩, -, hlength, hstart⟩ |
    ⟨⟨g, hg⟩, habort⟩
  · exact absurd hturn hnotTurn
  · exact .inl ⟨hreset, rfl⟩
  · exact absurd (congrArg Datapath.phase hsame) hmoved
  · exact .inr (.inr ⟨g, hg, congrArg Datapath.phase hstart, (badLength_eq_false_iff s).mp hlength⟩)
  · exact .inr (.inl ⟨g, hg, congrArg Datapath.phase habort⟩)

/-- Settles O52: a turn of the sequencer and an ABORT keep the latched inputs, and a START is accepted only outside the
busy phases. -/
theorem latchedInputsChangeOnlyAtStart : Obligations.LatchedInputsChangeOnlyAtStart := by
  intro s t hstep hchanged
  rcases step_datapath_cases hstep with ⟨-, hturn⟩ | ⟨hreset, -⟩ | hsame | ⟨hstart, hidle, -⟩ | ⟨-, habort⟩
  · obtain ⟨-, hlh, hdiffL, hnL, -⟩ := sequencerTurn_keeps hturn
    exact absurd ⟨hlh, hdiffL, hnL⟩ hchanged
  · exact .inl hreset
  · exact absurd ⟨congrArg Datapath.lh hsame, congrArg Datapath.diffL hsame, congrArg Datapath.nL hsame⟩ hchanged
  · exact .inr ⟨by rw [← isBusy_iff, hidle]; decide, hstart⟩
  · exact absurd ⟨congrArg Datapath.lh habort, congrArg Datapath.diffL habort, congrArg Datapath.nL habort⟩ hchanged

/-! The work buffer (20_memory.md R81, R82). -/

/-- Settles O32: the laws of one store, the last write being the one that is read. -/
theorem bufferBehavesAsPlainMemory : Obligations.BufferBehavesAsPlainMemory := fun s j v =>
  ⟨by rw [bufValue_storeEntry, if_pos rfl], fun k hk => by rw [bufValue_storeEntry, if_neg hk],
    fun w => by rw [bufValue_storeEntry, if_pos rfl], wf_bufStore s.buf j v⟩

/-- What entry `j` holds, and whether it is written, are read off the datapath. -/
theorem entry_of_datapath_eq {s t : State} (h : datapath t = datapath s) (j : Nat) :
    bufValue t j = bufValue s j ∧ written t j = written s j := by
  have hbuf : t.buf = s.buf := congrArg Datapath.buf h
  have hepoch : t.bufEpoch = s.bufEpoch := congrArg Datapath.bufEpoch h
  exact ⟨by rw [bufValue, bufValue, hbuf, hepoch], by rw [written, written, hbuf]⟩

/-- A turn of the sequencer changes at most entry FIDX, and that only in FILL. -/
theorem sequencerTurn_entry {s t : State} (h : sequencerTurn s = .next t) {j : Nat}
    (hj : ¬ (s.phase = phFill ∧ j = s.fidx.toNat)) : bufValue t j = bufValue s j ∧ written t j = written s j := by
  rcases sequencerTurn_next h with ⟨_, rfl⟩ | ⟨_, rfl⟩ | ⟨_, rfl⟩ | ⟨hp, _, rfl⟩ | ⟨_, _, rfl⟩ | ⟨_, _, rfl⟩ |
    ⟨_, _, _, rfl⟩ | ⟨_, rfl⟩ | ⟨_, rfl⟩ | ⟨_, rfl⟩
  case inr.inr.inr.inl =>
    have hne : j ≠ s.fidx.toNat := fun h => hj ⟨hp, h⟩
    change bufValue (afterFillStep s) j = _ ∧ written (afterFillStep s) j = _
    rw [bufValue_afterFillStep, written_afterFillStep, if_neg hne, decide_eq_false hne, Bool.false_or]
    exact ⟨rfl, rfl⟩
  all_goals exact ⟨rfl, rfl⟩

/-- Settles O33: beside reset, only the sequencer's turn in FILL reaches the buffer. -/
theorem onlyFillStepTouchesBuffer : Obligations.OnlyFillStepTouchesBuffer := by
  intro s t hstep hnotReset j hj
  rcases step_datapath_cases hstep with ⟨hnext, hturn⟩ | ⟨hreset, -⟩ | hsame | ⟨-, -, -, hstart⟩ | ⟨-, habort⟩
  · exact sequencerTurn_entry (s := takeEvent s) hturn fun ⟨hp, hfidx⟩ => hj ⟨hnext, hp, hfidx⟩
  · exact absurd hreset hnotReset
  · exact entry_of_datapath_eq hsame j
  · exact entry_of_datapath_eq hstart j
  · exact entry_of_datapath_eq habort j

/-! The commands and registers the host writes. -/

theorem exec_start_accepted {s : State} (g : BitVec 28) (hidle : ¬ isBusy s.phase = true)
    (hlength : badLength s = false) : exec (.start g) s = .next (acceptStart s) :=
  execStart_accepted g (Bool.not_eq_true _ ▸ hidle) hlength

/-- LH is latched as pairs of DIGEST registers (40_loader.md R141). -/
theorem acceptStart_lh_registers (s : State) :
    (acceptStart s).lh = ⟨s.digest.d0 ++ s.digest.d1, s.digest.d2 ++ s.digest.d3, s.digest.d4 ++ s.digest.d5,
      s.digest.d6 ++ s.digest.d7⟩ := by
  obtain ⟨-, hregisters⟩ := loaderPacksBigEndian
  exact hregisters s.digest

/-- Settles O8: the accepted START, with the latched digest as register pairs. -/
theorem startAccepted : Obligations.StartAccepted := by
  intro s g hphase hpos hmax
  have hidle : ¬ isBusy s.phase = true := mt (isBusy_iff_mem _).mp hphase
  rw [exec_start_accepted g hidle ((badLength_eq_false_iff s).mpr ⟨hpos, hmax⟩), ← acceptStart_lh_registers]
  rfl

/-- The eight registers as a function of their number: a write changes one of them. -/
theorem digestGet_digestSet (d : Digest) (k : Fin 8) (v : U32) :
    digestGet (digestSet d k v) = Function.update (digestGet d) k v := by
  funext k'
  fin_cases k <;> fin_cases k' <;> rfl

/-- DIGESTk is the register at offset 0x10 + 4k (10_state.md R43). -/
theorem digest_offset (k : Fin 8) :
    (BitVec.ofNat 8 (0x10 + 4 * k.val)).toNat = 0x10 + 4 * k.val ∧ (0x10 + 4 * k.val) % 4 = 0 ∧
      regAt (BitVec.ofNat 8 (0x10 + 4 * k.val)) = .digest k := by
  revert k
  decide

/-- The step of a 32-bit write to a register other than CTRL acknowledges the write and stores what `regWrite` says. -/
theorem step_registerWrite {s : State} {off : U8} {v : U32} {rest : List Event} (ha : off.toNat % 4 = 0)
    (hr : regAt off ≠ .ctrl) (he : s.events = .host (.write (s.params.base + off.toNat) (.w32 v)) :: rest) :
    step s = .next (regWrite (respond writeOk { s with events := rest }) (regAt off) v) := by
  rw [step_windowWrite32 ha he, windowWrite32_of_ne_ctrl hr]

/-- Settles O37: the write of each register, a DIGEST register keeping the other seven. -/
theorem writableRegistersStore : Obligations.WritableRegistersStore := by
  intro s v rest
  refine ⟨fun he => step_registerWrite (off := 0x08#8) rfl (by decide) he,
    fun he => step_registerWrite (off := 0x0C#8) rfl (by decide) he, fun k he => ?_⟩
  obtain ⟨hoff, haligned, hreg⟩ := digest_offset k
  refine ⟨digestSet s.digest k v, ?step, ?same, fun k' hk => ?other⟩
  case step =>
    rw [Nat.add_assoc, ← hoff] at he
    rw [step_registerWrite (by rwa [hoff]) (by rw [hreg]; exact Reg.noConfusion) he, hreg]
    rfl
  case same => rw [digestGet_digestSet, Function.update_self]
  case other => rw [digestGet_digestSet, Function.update_of_ne hk]

end Sys2Proof.Machine

namespace Sys2Proof.Machine

/-! The order of the phases (45_search_fsm.md R250). -/

/-- A turn of the sequencer answers what the micro-operation of its phase answers. -/
theorem sequencerTurn_eq_of_exec {s t u : State} {i : Instr} (ht : sequencerTurn s = .next t) (hop : nextMicroOp s = i)
    (hexec : exec i s = .next u) : t = u := by
  rw [sequencerTurn_eq, hop, hexec] at ht
  exact (Host.Outcome.next.inj ht).symm

/-- From FILL the sequencer fills until FIDX reaches N_L (42_buffer_fill.md R181). -/
theorem Inv.fill_successor {s t : State} (h : Inv s) (hp : s.phase = phFill) (ht : sequencerTurn s = .next t) :
    (t.fidx.toNat < t.nL.toNat → t.phase = phFill) ∧ (t.fidx = t.nL → t.phase = phBinit) ∧
      t.fidx.toNat ≤ t.nL.toNat := by
  obtain ⟨hroom, -⟩ := h.filling hp
  obtain ⟨-, hmax⟩ := h.legalLength hp (by decide)
  obtain rfl := sequencerTurn_eq_of_exec ht (nextMicroOp_fill hp) (exec_fillStep (hroom.trans_le hmax))
  change ((s.fidx + 1#32).toNat < s.nL.toNat → phaseAfterFill (s.fidx + 1#32) s.nL s.phase = phFill) ∧
    (s.fidx + 1#32 = s.nL → phaseAfterFill (s.fidx + 1#32) s.nL s.phase = phBinit) ∧
    (s.fidx + 1#32).toNat ≤ s.nL.toNat
  refine ⟨fun hless => ?_, fun hend => ?_, by bv_omega⟩
  · rw [phaseAfterFill_of_ne _ (by bv_omega), hp]
  · rw [hend, phaseAfterFill_end]

/-- From BOUNCE the sequencer bounces until ROUND reaches 1024 (43_bounce.md R206). -/
theorem Inv.bounce_successor {s t : State} (h : Inv s) (hp : s.phase = phBounce) (ht : sequencerTurn s = .next t) :
    (t.round.toNat < 1024 → t.phase = phBounce) ∧ (t.round.toNat = 1024 → t.phase = phTest) ∧
      t.round.toNat ≤ 1024 := by
  have hleft : s.round.toNat < 1024 := h.bouncing hp
  obtain ⟨hpos, hmax⟩ := h.legalLength hp (by decide)
  obtain rfl := sequencerTurn_eq_of_exec ht (nextMicroOp_bounce hp)
    (exec_bounceStep hpos ((bounceIndex_toNat_lt _ hpos).trans_le hmax))
  change ((s.round + 1#11).toNat < 1024 → phaseAfterRound (s.round + 1#11) s.phase = phBounce) ∧
    ((s.round + 1#11).toNat = 1024 → phaseAfterRound (s.round + 1#11) s.phase = phTest) ∧
    (s.round + 1#11).toNat ≤ 1024
  refine ⟨fun hless => ?_, fun hend => ?_, by bv_omega⟩
  · rw [phaseAfterRound_of_ne _ (by bv_omega), hp]
  · rw [show s.round + 1#11 = rounds by bv_omega, phaseAfterRound_end]

/-- From TEST the sequencer goes by the result (45_search_fsm.md R262). -/
theorem test_successor {s t : State} (hp : s.phase = phTest) (ht : sequencerTurn s = .next t) :
    (t.diffL.toNat ≤ lzc64 t.acc → t.phase = phFound) ∧ (lzc64 t.acc < t.diffL.toNat → t.phase = phIncr) := by
  obtain rfl := sequencerTurn_eq_of_exec ht (nextMicroOp_test hp) (exec_diffTest s)
  exact ⟨fun hpass => phaseAfterTest_of_passes (passes_iff.mpr hpass),
    fun hfail => phaseAfterTest_of_fails (passes_eq_false_iff.mpr hfail)⟩

/-- Settles O50: the micro-operation of each phase, and the phase its next state holds. -/
theorem phaseOrder : Obligations.PhaseOrder := by
  intro s t hinv hnext hstep
  rw [step_of_nextEvent_seq hnext] at hstep
  have hinv' : Inv (takeEvent s) := hinv.takeEvent
  refine ⟨fun hp => ?idle, fun hp => ?seed, fun hp => ?derive, fun hp => hinv'.fill_successor hp hstep, fun hp => ?binit,
    fun hp => hinv'.bounce_successor hp hstep, fun hp => test_successor (s := takeEvent s) hp hstep,
    fun hp => ?incr, fun hp => ?found⟩
  case idle =>
    obtain rfl := sequencerTurn_eq_of_exec hstep (nextMicroOp_idle hp) rfl
    exact hp
  case seed =>
    obtain rfl := sequencerTurn_eq_of_exec hstep (nextMicroOp_seed hp) (exec_seedAdvance _)
    rfl
  case derive =>
    obtain rfl := sequencerTurn_eq_of_exec hstep (nextMicroOp_derive hp) (exec_stateDerive _)
    rfl
  case binit =>
    obtain ⟨hpos, hmax⟩ := hinv'.legalLength hp (by decide)
    obtain rfl := sequencerTurn_eq_of_exec hstep (nextMicroOp_binit hp) (exec_bounceInit (hpos.trans hmax))
    rfl
  case incr =>
    obtain rfl := sequencerTurn_eq_of_exec hstep (nextMicroOp_incr hp) (exec_nonceInc _)
    rfl
  case found =>
    obtain rfl := sequencerTurn_eq_of_exec hstep (nextMicroOp_found hp) rfl
    exact hp

end Sys2Proof.Machine

namespace Sys2Proof.Machine

/-! One attempt, and when a search is over (45_search_fsm.md R264, R266). -/

theorem afterAttempt_result (s : State) :
    ((afterAttempt s).acc, (afterAttempt s).gen) = attempt s.lh (s.seed * s.params.seedMult) s.nL :=
  attemptFrom_eq s

/-- Settles O57: `runSteps_attempt`, and the fields of the state at TEST. -/
theorem attemptRunRefinesAttempt : Obligations.AttemptRunRefinesAttempt := by
  intro s hinv hevents hphase
  obtain ⟨hpos, hmax⟩ := hinv.legalLength hphase (by decide)
  exact ⟨afterAttempt s, runSteps_attempt hevents hphase hpos hmax, rfl, afterAttempt_result s, rfl, rfl, rfl, rfl, rfl⟩

/-- A run that goes through passes every number of steps below its length. -/
theorem runSteps_split {k n : Nat} {s t : State} (h : runSteps (k + n) s = .next t) :
    ∃ u, runSteps k s = .next u ∧ runSteps n u = .next t := by
  induction k generalizing s with
  | zero => exact ⟨s, rfl, by rwa [Nat.zero_add] at h⟩
  | succ k ih =>
    rw [Nat.succ_add] at h
    obtain ⟨v, hstep, hrest⟩ := runSteps_succ_next h
    obtain ⟨u, hrun, hlast⟩ := ih hrest
    exact ⟨u, by rw [runSteps_succ_of_next hstep, hrun], hlast⟩

/-- A run of micro-steps alone places no events. -/
theorem runSteps_events_nil {k : Nat} {s t : State} (hevents : s.events = []) (h : runSteps k s = .next t) :
    t.events = [] := by
  induction k generalizing s with
  | zero =>
    obtain rfl : s = t := Host.Outcome.next.inj h
    exact hevents
  | succ k ih =>
    obtain ⟨u, hstep, hrest⟩ := runSteps_succ_next h
    rw [step_of_events_nil hevents] at hstep
    obtain ⟨-, -, hkept⟩ := sequencerTurn_frame hstep
    exact ih (hkept.trans hevents) hrest

/-- Left to itself, the block stays in FOUND (45_search_fsm.md R257). -/
theorem runSteps_found {s : State} (hevents : s.events = []) (hp : s.phase = phFound) (n : Nat) :
    runSteps n s = .next s := by
  have hstep : step s = .next s := by
    rw [step_of_events_nil hevents, sequencerTurn_eq, nextMicroOp_found hp]
    rfl
  induction n with
  | zero => rfl
  | succ n ih => rw [runSteps_succ_of_next hstep, ih]

/-- A run of micro-steps that ends outside FOUND has not been in FOUND before. -/
theorem not_found_of_runSteps {k n : Nat} {s t : State} (hevents : s.events = []) (hrun : runSteps n s = .next t)
    (ht : t.phase ≠ phFound) (hk : k ≤ n) : ∃ u, runSteps k s = .next u ∧ u.phase ≠ phFound := by
  rw [← Nat.add_sub_of_le hk] at hrun
  obtain ⟨u, hfirst, hrest⟩ := runSteps_split hrun
  refine ⟨u, hfirst, fun hfound => ht ?_⟩
  rw [runSteps_found (runSteps_events_nil hevents hfirst) hfound] at hrest
  obtain rfl : u = t := Host.Outcome.next.inj hrest
  exact hfound

/-- Settles O58: the first test passes, and the block is still in TEST one micro-step before. -/
theorem zeroDifficultyFindsAtOnce : Obligations.ZeroDifficultyFindsAtOnce := by
  intro s hinv hevents hphase hzero
  obtain ⟨hpos, hmax⟩ := hinv.legalLength hphase (by decide)
  have hpass : passes (afterAttempt s).acc s.diffL = true := by
    rw [passes_iff, hzero]
    exact Nat.zero_le _
  constructor
  · exact ⟨afterDiffTest (afterAttempt s), runSteps_attempt_test hevents hphase hpos hmax,
      phaseAfterTest_of_passes hpass, rfl⟩
  · intro k hk
    have htest : (afterAttempt s).phase ≠ phFound := by
      rw [show (afterAttempt s).phase = phTest from rfl]
      decide
    exact not_found_of_runSteps hevents (runSteps_attempt hevents hphase hpos hmax) htest (Nat.le_of_lt_succ hk)

/-! A search that cannot end (45_search_fsm.md R266, second case). -/

theorem isBusy_phaseAfterFill {p : U4} (f n : U32) (h : isBusy p = true) : isBusy (phaseAfterFill f n p) = true := by
  rcases phaseAfterFill_cases f n p with ⟨-, hnext⟩ | ⟨-, hnext⟩
  · rw [hnext]
    rfl
  · rwa [hnext]

theorem isBusy_phaseAfterRound {p : U4} (r : BitVec 11) (h : isBusy p = true) :
    isBusy (phaseAfterRound r p) = true := by
  rcases phaseAfterRound_cases r p with ⟨-, hnext⟩ | ⟨-, hnext⟩
  · rw [hnext]
    rfl
  · rwa [hnext]

/-- A search that does not pass its test stays busy: only the test leads out of the busy phases (R250, R262). -/
theorem sequencerTurn_stays_busy {s t : State} (hbusy : isBusy s.phase = true) (hfail : passes s.acc s.diffL = false)
    (h : sequencerTurn s = .next t) : isBusy t.phase = true := by
  rcases sequencerTurn_next h with ⟨_, rfl⟩ | ⟨_, rfl⟩ | ⟨_, rfl⟩ | ⟨_, _, rfl⟩ | ⟨_, _, rfl⟩ | ⟨_, _, rfl⟩ |
    ⟨_, _, _, rfl⟩ | ⟨_, rfl⟩ | ⟨_, rfl⟩ | ⟨_, rfl⟩
  · exact hbusy
  · rfl
  · rfl
  · exact isBusy_phaseAfterFill _ _ hbusy
  · rfl
  · exact isBusy_phaseAfterRound _ hbusy
  · exact isBusy_phaseAfterRound _ hbusy
  · change isBusy (phaseAfterTest s.acc s.diffL) = true
    rw [phaseAfterTest_of_fails hfail]
    rfl
  · rfl
  · exact hbusy

/-- No count of leading zeros reaches a difficulty of 65 (44_leading_zero.md R231). -/
theorem passes_of_ge_65 (acc : U64) {d : U8} (h : 65 ≤ d.toNat) : passes acc d = false :=
  passes_eq_false_iff.mpr (Nat.lt_of_le_of_lt (lzc64_le acc) h)

/-- A running search, left to itself, whose difficulty nothing meets. -/
structure Unsatisfiable (s : State) : Prop where
  inv : Inv s
  events : s.events = []
  busy : isBusy s.phase = true
  difficulty : 65 ≤ s.diffL.toNat

/-- Such a search takes a step and is again such a search. -/
theorem Unsatisfiable.step {s : State} (h : Unsatisfiable s) : ∃ t, step s = .next t ∧ Unsatisfiable t := by
  obtain ⟨t, hturn⟩ := h.inv.sequencerTurn_exists
  obtain ⟨-, -, hdiffL, -, -, -, -, -, -, -, hevents⟩ := sequencerTurn_keeps hturn
  exact ⟨t, (step_of_events_nil h.events).trans hturn, h.inv.of_sequencerTurn hturn, hevents.trans h.events,
    sequencerTurn_stays_busy h.busy (passes_of_ge_65 _ h.difficulty) hturn, hdiffL ▸ h.difficulty⟩

theorem Unsatisfiable.runSteps {s : State} (h : Unsatisfiable s) (k : Nat) :
    ∃ t, runSteps k s = .next t ∧ Unsatisfiable t := by
  induction k generalizing s with
  | zero => exact ⟨s, rfl, h⟩
  | succ k ih =>
    obtain ⟨u, hstep, hu⟩ := h.step
    obtain ⟨t, hrun, ht⟩ := ih hu
    exact ⟨t, by rw [runSteps_succ_of_next hstep, hrun], ht⟩

/-- Settles O59: by induction on the number of micro-steps the search stays one that nothing satisfies. -/
theorem unsatisfiableSearchNeverEnds : Obligations.UnsatisfiableSearchNeverEnds := by
  intro s hinv hevents hbusy hdifficulty k
  obtain ⟨t, hrun, ht⟩ := (Unsatisfiable.mk hinv hevents hbusy hdifficulty).runSteps k
  exact ⟨t, hrun, ht.busy⟩

end Sys2Proof.Machine

namespace Sys2Proof.Machine

/-! An attempt over one entry (43_bounce.md R208). -/

/-- The one index below 1. -/
theorem bounceIndex_one (r : U64) : (bounceIndex r 1#32).toNat = 0 := by
  rw [bounceIndex_toNat, show (1#32).toNat = 1 from rfl, Nat.mod_one]

/-- Over one entry each two rounds fold the same word in twice, which leaves the accumulator. -/
theorem bounceRounds_one_even (read : Nat → U64) (k : Nat) (acc : U64) (g : Quad) :
    (bounceRounds read 1#32 (2 * k) acc g).1 = acc := by
  induction k generalizing acc g with
  | zero => rfl
  | succ k ih =>
    rw [Nat.mul_succ, bounceRounds, bounceRounds, bounceIndex_one, bounceIndex_one, ih, BitVec.xor_assoc,
      BitVec.xor_self, BitVec.xor_zero]

/-- The 1024 rounds are an even number, so ACC is BUF[0]. -/
theorem bounce_one (read : Nat → U64) (g : Quad) : (bounce read g 1#32).1 = read 0 := by
  rw [bounce, show 1024 = 2 * 512 from rfl, bounceRounds_one_even]

theorem filledBuffer_fillOutputs_zero (g : Quad) (n : Nat) :
    filledBuffer (fillOutputs g (n + 1)).1 0 = (prngNext g).1 := rfl

/-- Settles O28: BUF[0] is the first output, S[0] + S[3] of the derived state. -/
theorem oneEntryAttemptIsFirstOutput : Obligations.OneEntryAttemptIsFirstOutput := by
  intro lh seed
  rw [attempt, bounce_one, show (1#32).toNat = 0 + 1 from rfl, filledBuffer_fillOutputs_zero, prngNext_output,
    deriveState]

/-! The leading-zero count by halves (44_leading_zero.md R232). -/

/-- The highest set bit determines the count. -/
theorem lzc64_eq_of_highest {x : U64} {i : Nat} (hset : x.getLsbD i = true)
    (habove : ∀ j, i < j → x.getLsbD j = false) : lzc64 x = 63 - i := by
  rcases lzc64_cases x with ⟨rfl, -⟩ | ⟨k, -, hkset, hkabove, hcount⟩
  · simp at hset
  · have hle : ¬ i < k := fun h => by simp [habove k h] at hkset
    have hge : ¬ k < i := fun h => by simp [hkabove i h] at hset
    rw [hcount, show k = i by omega]

/-- Bit `i` of a half of a word is bit `start + i` of the word. -/
theorem getLsbD_half (x : U64) (start i : Nat) :
    ((x.extractLsb' start 32).setWidth 64).getLsbD i = (decide (i < 32) && x.getLsbD (start + i)) := by
  by_cases h : i < 32
  · simp [h, show i < 64 by omega]
  · simp [h]

/-- The highest set bit of a word is that of the half it lies in. -/
theorem lzc64_half {x : U64} {start i : Nat} (hi : i < 32) (hset : x.getLsbD (start + i) = true)
    (habove : ∀ j, start + i < j → x.getLsbD j = false) :
    lzc64 ((x.extractLsb' start 32).setWidth 64) = 63 - i := by
  apply lzc64_eq_of_highest
  · rw [getLsbD_half, hset, decide_eq_true hi, Bool.true_and]
  · intro j hj
    rw [getLsbD_half, habove (start + j) (by omega), Bool.and_false]

/-- Settles O30: by where the highest set bit lies, in the high half, in the low half, or nowhere. -/
theorem leadingZeroCountSplitsInHalves : Obligations.LeadingZeroCountSplitsInHalves := by
  intro x
  rcases lzc64_cases x with ⟨rfl, hcount⟩ | ⟨i, hi, hset, habove, hcount⟩
  · have hhalf : ((0#64).extractLsb' 0 32).setWidth 64 = 0#64 := by decide
    rw [if_neg (by decide), hhalf, hcount]
  · rcases Nat.lt_or_ge i 32 with hlow | hhigh
    · have hzero : x.extractLsb' 32 32 = 0#32 := by
        apply BitVec.eq_of_getLsbD_eq
        intro j hj
        simp [hj, habove (32 + j) (by omega)]
      have hhalf := lzc64_half (start := 0) hlow (by rwa [Nat.zero_add]) (by rwa [Nat.zero_add])
      rw [if_neg (not_not.mpr hzero), hhalf, hcount]
      omega
    · obtain ⟨j, rfl⟩ := Nat.exists_eq_add_of_le hhigh
      have hbit : (x.extractLsb' 32 32).getLsbD j = true := by
        simp [hset, show j < 32 by omega]
      have hne : x.extractLsb' 32 32 ≠ 0#32 := by
        intro hzero
        simp [hzero] at hbit
      rw [if_pos hne, lzc64_half (start := 32) (by omega) hset habove, hcount]
      omega

end Sys2Proof.Machine
